-- ==== Sys2Proof/Config.lean ====
section
/-! DEFINITION. The constants of APD (00_scope.md R6, R7): widths, and the named literals as fields of one
configuration record with the values the spec gives. The one open parameter, `NUMFMT` (R8), is no field of it but an
argument: NumberFormat of Word.lean. No free value: the spec leaves no result open once `NUMFMT` is given (log
entry 1). -/

namespace Sys2Proof

/-- `TERMINAL_POLICY` (R7, D9; 93 U2): what a finalized Peak does in state 14.
The spec supports one value only. -/
inductive TerminalPolicy where
  | hold
  deriving DecidableEq, Repr

/-- The named constants of R6 and R7. The widths are also those of the types of Word.lean
(Tests/Slice0.lean, `test_widths`). -/
structure Config where
  /-- `ADDR_W`: width of `bit_accumulator` and of the decoded address. -/
  addrW : Nat
  /-- `HBC_W` (D10): width of the `half_bit_count` register. -/
  hbcW : Nat
  /-- `CNT_W` (D10): width of `tick_cnt` and `pk_pos`, which saturate. -/
  cntW : Nat
  /-- `PROG_W` (D8): width of `progress_percent`. -/
  progW : Nat
  /-- `CMD_W` (D3): width of the command port, without `rst`. -/
  cmdW : Nat
  /-- `HBC_MAX`: terminal value of `half_bit_count`. -/
  hbcMax : BitVec 4
  /-- `HBC_FOLD`: the value forced to `HBC_MAX` after each table application. -/
  hbcFold : BitVec 4
  /-- `HBC_START`: `half_bit_count` after the preamble is accepted. -/
  hbcStart : BitVec 4
  /-- `BUF_LEN`: entries in the delta buffer (State has one field for each). -/
  bufLen : Nat
  /-- `FILTER_TERMS`: terms the filter sums. -/
  filterTerms : Nat
  /-- `FILTER_DIV`: divisor of the filter's sum (C3, D7). -/
  filterDiv : Rat
  /-- `THRESH_RATIO`: threshold as a fraction of the running maximum. -/
  threshRatio : Rat
  /-- `DECAY`: factor of the running maximum in every tick. -/
  decay : Rat
  shortLo : Nat
  shortHi : Nat
  normLo : Nat
  normHi : Nat
  longLo : Nat
  longHi : Nat
  /-- `PROGRESS_SCALE`. -/
  progressScale : Nat
  /-- `TICK_NOMINAL`: nominal interval between samples; no rule depends on it. -/
  tickNominal : Nat
  terminalPolicy : TerminalPolicy
  deriving DecidableEq, Repr

/-- The values the spec gives (R6, R7). -/
def config : Config where
  addrW := 6
  hbcW := 4
  cntW := 8
  progW := 7
  cmdW := 2
  hbcMax := 14
  hbcFold := 13
  hbcStart := 2
  bufLen := 3
  filterTerms := 4
  filterDiv := 4
  threshRatio := 1 / 2
  decay := 99 / 100
  shortLo := 4
  shortHi := 6
  normLo := 9
  normHi := 11
  longLo := 14
  longHi := 16
  progressScale := 100
  tickNominal := 50
  terminalPolicy := .hold

end Sys2Proof
end

