-- ==== Sys2Proof/Word.lean ====
section
/-! DEFINITION. The value types of APD: the values and the arithmetic of the number format `NUMFMT` (00_scope.md R8,
log entry 1), and the unsigned integer registers (R9), of the widths of R6 and R7. -/

namespace Sys2Proof

/-- A value of `NUMFMT` (R8, D1): exact rational numbers in the reference semantics; in any other format the finite
values, each of which is a rational number. -/
abbrev Numfmt := Rat

/-- The arithmetic of a `NUMFMT` (R8, U7), an argument of the operations that compute with it. Comparisons, `sign`,
`abs` and `max` are exact on values of every format; the operations named here may round (R194, log entry 1). -/
structure NumberFormat where
  /-- The values of the format. Anything else on `data_in` is outside the contract (R83, U6). -/
  carries : Numfmt → Bool
  /-- The value a constant of R6 has in the format (R194 c: 99/100 is not exact in binary). -/
  literal : Rat → Numfmt
  add : Numfmt → Numfmt → Numfmt
  sub : Numfmt → Numfmt → Numfmt
  mul : Numfmt → Numfmt → Numfmt
  div : Numfmt → Numfmt → Numfmt

/-- A count of ticks: `tick_cnt`, `pk_pos` and a Peak's position (R25, R26). -/
abbrev Ticks := BitVec 8

/-- `half_bit_count` (R27). -/
abbrev Count := BitVec 4

/-- `bit_accumulator` and the decoded address (R28). -/
abbrev Addr := BitVec 6

/-- `progress_percent` (R30). -/
abbrev Percent := BitVec 7

end Sys2Proof
end

