-- ==== Sys2Proof/Syntax.lean ====
section
/-! DEFINITION. The operations of APD: one constructor for every mnemonic of spec/opcode_table.json, with the
operands its rule gives it, and the words that select operations (30_encoding.md R65, R68, R70). -/

namespace Sys2Proof

/-- A finalized Peak `{value, position}` (10_state.md R25, 42_framing_fsm.md R120). -/
structure Peak where
  value : Numfmt
  position : Ticks
  deriving DecidableEq, Repr

/-- The gap classes of R71. -/
inductive GapClass where
  | other
  | short
  | normal
  | long
  deriving DecidableEq, Repr

/-- The operations. The five commands are selected by the caller; the others run inside `TICK_S` and `TICK_D`. -/
inductive Instr where
  -- format CMD, the command port (43_commands.md)
  | reset
  | nop
  | tickS (x : Numfmt)
  | tickD (d : Numfmt)
  | clear
  -- the signal preprocessor (40_preprocessor.md)
  | preDelta (x : Numfmt)
  | preFilter (raw : Numfmt)
  | preShift (raw : Numfmt)
  -- the peak detector (41_peak_detector.md)
  | pdTrack (d : Numfmt)
  | pdStart (d : Numfmt)
  | pdMerge (d : Numfmt)
  | pdFinalReject (d : Numfmt)
  | pdFinalBelow
  | pdIdle
  | pdCount
  | pdDecay
  -- the framing state machine (42_framing_fsm.md)
  | fsmHold (pk : Peak)
  | fsmStart (pk : Peak)
  | fsmNoise (pk : Peak)
  | fsmSignerr (pk : Peak)
  | fsmHalf (pk : Peak)
  | fsmFull (pk : Peak)
  | fsmLong (pk : Peak)
  | fsmBadtime (pk : Peak)
  | fsmPost (value : Numfmt)
  deriving DecidableEq, Repr

/-- A selecting word with its operand, one constructor a format of 30_encoding.md. -/
inductive Request where
  /-- Format CMD (R65): `{rst, cmd[1], cmd[0]}` and `data_in` at one clock edge: what the caller presents. -/
  | cmd (word : BitVec 3) (dataIn : Numfmt)
  /-- Format PD (R68): `{A, V, M}` and the delta it was formed on. -/
  | pd (word : BitVec 3) (delta : Numfmt)
  /-- Format FSM (R70): `{T, Z, S, P, G}` and the Peak it was formed on. -/
  | fsm (word : BitVec 6) (peak : Peak)
  /-- A number that fits no format: six bits do not hold it. The decoder rejects it. -/
  | unknown (word : Nat)
  deriving DecidableEq, Repr

/-- The caller can present words of format CMD only (R31, R65). -/
def Request.isCommand : Request → Bool
  | .cmd _ _ => true
  | .pd _ _ => false
  | .fsm _ _ => false
  | .unknown _ => false

/-- The five operations the caller selects (R66). -/
def Instr.isCommand : Instr → Bool
  | .reset => true
  | .nop => true
  | .tickS _ => true
  | .tickD _ => true
  | .clear => true
  | .preDelta _ => false
  | .preFilter _ => false
  | .preShift _ => false
  | .pdTrack _ => false
  | .pdStart _ => false
  | .pdMerge _ => false
  | .pdFinalReject _ => false
  | .pdFinalBelow => false
  | .pdIdle => false
  | .pdCount => false
  | .pdDecay => false
  | .fsmHold _ => false
  | .fsmStart _ => false
  | .fsmNoise _ => false
  | .fsmSignerr _ => false
  | .fsmHalf _ => false
  | .fsmFull _ => false
  | .fsmLong _ => false
  | .fsmBadtime _ => false
  | .fsmPost _ => false

end Sys2Proof
end

