-- ==== Sys2Proof/Machine/Operands.lean ====
section
/-! DEFINITION. The value functions of the rules' pseudocode (00_scope.md R10) and the gap class of a position
(30_encoding.md R71). -/

namespace Sys2Proof.Machine

/-- The reference `NUMFMT` (R8, D1): every operation exact, every rational a value. -/
def exactFormat : NumberFormat where
  carries _ := true
  literal x := x
  add x y := x + y
  sub x y := x - y
  mul x y := x * y
  div x y := x / y

/-- A format whose operations are the exact ones, each result and each constant rounded to a value (R194). -/
def roundedFormat (carries : Numfmt → Bool) (round : Rat → Numfmt) : NumberFormat where
  carries := carries
  literal x := round x
  add x y := round (x + y)
  sub x y := round (x - y)
  mul x y := round (x * y)
  div x y := round (x / y)

/-- Binary fixed point with `n` fraction bits, rounding down: one finite-precision `NUMFMT` (R8, R194). -/
def fixedPoint (n : Nat) : NumberFormat :=
  roundedFormat (fun x => (x * 2 ^ n).den == 1) fun x => ((x * 2 ^ n).floor : Rat) / 2 ^ n

/-- The three values of `sign` (R10, D17). -/
inductive Sign where
  | neg
  | zero
  | pos
  deriving DecidableEq, Repr

/-- `sign(x)`: +1 when `x > 0`, −1 when `x < 0`, 0 when `x = 0` (R10). -/
def sign (x : Numfmt) : Sign :=
  if 0 < x then .pos else if x < 0 then .neg else .zero

/-- `abs(x)` (R10). -/
def magnitude (x : Numfmt) : Numfmt :=
  if x < 0 then -x else x

/-- `max(a, b)` (R10). -/
def larger (a b : Numfmt) : Numfmt :=
  if a ≤ b then b else a

/-- `sat_inc(c)`: `c + 1` below `2^CNT_W − 1`, else `c` (R10, R108). -/
def satInc (c : Ticks) : Ticks :=
  if c.toNat < 2 ^ config.cntW - 1 then c + 1 else c

/-- `in(p, lo, hi)`: both ends included (R10). -/
def inWindow (p : Ticks) (lo hi : Nat) : Bool :=
  decide (lo ≤ p.toNat) && decide (p.toNat ≤ hi)

/-- The gap class of a position (R71). -/
def gapClass (p : Ticks) : GapClass :=
  if inWindow p config.shortLo config.shortHi then .short
  else if inWindow p config.normLo config.normHi then .normal
  else if inWindow p config.longLo config.longHi then .long
  else .other

/-- The two bits `G` of a gap class (R71). -/
def gapCode : GapClass → BitVec 2
  | .other => 0b00
  | .short => 0b01
  | .normal => 0b10
  | .long => 0b11

/-- The gap class a pair of bits `G` names (R71). -/
def gapOfCode (g : BitVec 2) : GapClass :=
  if g = 0b01 then .short else if g = 0b10 then .normal else if g = 0b11 then .long else .other

/-- The lowest position of a gap class (R71): stands for a class where a table word carries no position
(DESIGN CHOICE, log entry 8). -/
def gapLowest : GapClass → Ticks
  | .other => 0
  | .short => BitVec.ofNat 8 config.shortLo
  | .normal => BitVec.ofNat 8 config.normLo
  | .long => BitVec.ofNat 8 config.longLo

/-- Parity of a count, `n & 1` (R10). -/
def oddCount (c : Count) : Bool := c.getLsbD 0

end Sys2Proof.Machine
end

