-- ==== Sys2Proof/WellFormed.lean ====
section
/-! DEFINITION. Which operations are well formed: those whose operand agrees with what their selecting word
says of it (30_encoding.md R68 to R72). -/

namespace Sys2Proof

/-- A branch above the threshold has a non-zero delta (R101, R113); a row that fixes the gap class has a Peak
of that class (R70, R72). Everything else is well formed as it stands. -/
def wellFormed : Instr → Bool
  | .reset => true
  | .nop => true
  | .tickS _ => true
  | .tickD _ => true
  | .clear => true
  | .preDelta _ => true
  | .preFilter _ => true
  | .preShift _ => true
  | .pdTrack _ => true
  | .pdStart d => decide (d ≠ 0)
  | .pdMerge d => decide (d ≠ 0)
  | .pdFinalReject d => decide (d ≠ 0)
  | .pdFinalBelow => true
  | .pdIdle => true
  | .pdCount => true
  | .pdDecay => true
  | .fsmHold _ => true
  | .fsmStart pk => decide (Machine.gapClass pk.position = .normal)
  | .fsmNoise pk => decide (Machine.gapClass pk.position ≠ .normal)
  | .fsmSignerr _ => true
  | .fsmHalf pk => decide (Machine.gapClass pk.position = .short)
  | .fsmFull pk => decide (Machine.gapClass pk.position = .normal)
  | .fsmLong pk => decide (Machine.gapClass pk.position = .long)
  | .fsmBadtime pk => decide (Machine.gapClass pk.position ≠ .normal)
  | .fsmPost _ => true

end Sys2Proof
end

