-- ==== Sys2Proof/Decode.lean ====
section
/-! DEFINITION. The selection tables of 30_encoding.md (R66, R69, R72), row for row with the match and mask of
spec/opcode_table.json, the decoder that reads them, and the encoder. The seven operations of R73 have no
selecting pattern, so no word decodes to them (log entry 9). -/

namespace Sys2Proof

/-- A row of the selection table: a word `w` is of the row when `w &&& mask = value`. -/
structure Pattern (n : Nat) (α : Type) where
  mask : BitVec n
  value : BitVec n
  build : α → Instr

def Pattern.matches {n : Nat} {α : Type} (r : Pattern n α) (w : BitVec n) : Bool :=
  w &&& r.mask == r.value

/-- Format CMD (R66). -/
def cmdRows : List (Pattern 3 Numfmt) :=
  [ ⟨0b100, 0b100, fun _ => .reset⟩,
    ⟨0b111, 0b000, fun _ => .nop⟩,
    ⟨0b111, 0b001, fun x => .tickS x⟩,
    ⟨0b111, 0b010, fun d => .tickD d⟩,
    ⟨0b111, 0b011, fun _ => .clear⟩ ]

/-- Format PD (R69). -/
def pdRows : List (Pattern 3 Numfmt) :=
  [ ⟨0b110, 0b000, fun _ => .pdIdle⟩,
    ⟨0b110, 0b010, fun _ => .pdFinalBelow⟩,
    ⟨0b110, 0b100, fun d => .pdStart d⟩,
    ⟨0b111, 0b111, fun d => .pdMerge d⟩,
    ⟨0b111, 0b110, fun d => .pdFinalReject d⟩ ]

/-- Format FSM (R72). -/
def fsmRows : List (Pattern 6 Peak) :=
  [ ⟨0b100000, 0b100000, fun pk => .fsmHold pk⟩,
    ⟨0b110011, 0b010010, fun pk => .fsmStart pk⟩,
    ⟨0b110011, 0b010000, fun pk => .fsmNoise pk⟩,
    ⟨0b110011, 0b010001, fun pk => .fsmNoise pk⟩,
    ⟨0b110011, 0b010011, fun pk => .fsmNoise pk⟩,
    ⟨0b111000, 0b001000, fun pk => .fsmSignerr pk⟩,
    ⟨0b111111, 0b000001, fun pk => .fsmHalf pk⟩,
    ⟨0b111011, 0b000010, fun pk => .fsmFull pk⟩,
    ⟨0b111111, 0b000111, fun pk => .fsmLong pk⟩,
    ⟨0b111011, 0b000000, fun pk => .fsmBadtime pk⟩,
    ⟨0b111111, 0b000101, fun pk => .fsmBadtime pk⟩,
    ⟨0b111111, 0b000011, fun pk => .fsmBadtime pk⟩ ]

/-- Why a request is no operation. -/
inductive DecodeError where
  /-- The word fits no format of 30_encoding.md. Safe: the machine forms no such word. -/
  | noFormat
  /-- No row of the format's table has the word. Safe: the tables cover every word (R69, R72, R81). -/
  | noRow
  /-- `A = 1` with a zero delta, which is above no threshold (R101). Safe. -/
  | zeroDelta
  /-- The bits `G` are not the class of the Peak's position (R70, R71). Safe. -/
  | gapMismatch
  deriving DecidableEq, Repr

/-- The row a word selects, applied to its operand. -/
def selectRowOf {n : Nat} {α : Type} (rows : List (Pattern n α)) (w : BitVec n) (operand : α) :
    Except DecodeError Instr :=
  match rows.find? fun r => r.matches w with
  | some r => .ok (r.build operand)
  | none => .error .noRow

/-- Bit `A` of a PD word (R68). -/
def pdAbove (w : BitVec 3) : Bool := w.getLsbD 2

/-- Bits `G` of an FSM word (R70). -/
def fsmGap (w : BitVec 6) : BitVec 2 := w.extractLsb' 0 2

/-- The decoder: total, and rejecting by name (log entry 7). -/
def decode : Request → Except DecodeError Instr
  | .cmd w x => selectRowOf cmdRows w x
  | .pd w d => if pdAbove w && decide (d = 0) then .error .zeroDelta else selectRowOf pdRows w d
  | .fsm w pk =>
    if fsmGap w = Machine.gapCode (Machine.gapClass pk.position) then selectRowOf fsmRows w pk
    else .error .gapMismatch
  | .unknown _ => .error .noFormat

/-- `base` with the class of `pk` in its bits `G` (R70). -/
def withGap (base : BitVec 4) (pk : Peak) : BitVec 6 :=
  base ++ Machine.gapCode (Machine.gapClass pk.position)

/-- The encoder, from the same tables: the selecting word of an operation with its operand; `none` for the
operations that run unconditionally (R73). Bits the table leaves open are 0, an unused operand is 0. -/
def encode : Instr → Option Request
  | .reset => some (.cmd 0b100 0)
  | .nop => some (.cmd 0b000 0)
  | .tickS x => some (.cmd 0b001 x)
  | .tickD d => some (.cmd 0b010 d)
  | .clear => some (.cmd 0b011 0)
  | .preDelta _ => none
  | .preFilter _ => none
  | .preShift _ => none
  | .pdTrack _ => none
  | .pdStart d => some (.pd 0b100 d)
  | .pdMerge d => some (.pd 0b111 d)
  | .pdFinalReject d => some (.pd 0b110 d)
  | .pdFinalBelow => some (.pd 0b010 0)
  | .pdIdle => some (.pd 0b000 0)
  | .pdCount => none
  | .pdDecay => none
  | .fsmHold pk => some (.fsm (withGap 0b1000 pk) pk)
  | .fsmStart pk => some (.fsm (withGap 0b0100 pk) pk)
  | .fsmNoise pk => some (.fsm (withGap 0b0100 pk) pk)
  | .fsmSignerr pk => some (.fsm (withGap 0b0010 pk) pk)
  | .fsmHalf pk => some (.fsm (withGap 0b0000 pk) pk)
  | .fsmFull pk => some (.fsm (withGap 0b0000 pk) pk)
  | .fsmLong pk => some (.fsm (withGap 0b0001 pk) pk)
  | .fsmBadtime pk =>
    if Machine.gapClass pk.position = .short then some (.fsm (withGap 0b0001 pk) pk)
    else some (.fsm (withGap 0b0000 pk) pk)
  | .fsmPost _ => none

/-- The request that a word of spec/opcode_table.json stands for, its operand zero. The table's words are bare:
one of three bits is read as a word of the command port, the only words that come from outside; one that needs
six bits, or is given as six bits wide, as an FSM word, its Peak the value 0 at the lowest position of the
word's gap class (DESIGN CHOICE, log entry 8). -/
def tableRequest (nbits w : Nat) : Request :=
  if w < 8 ∧ nbits ≠ 6 then .cmd (BitVec.ofNat 3 w) 0
  else if w < 64 then
    .fsm (BitVec.ofNat 6 w) ⟨0, Machine.gapLowest (Machine.gapOfCode (fsmGap (BitVec.ofNat 6 w)))⟩
  else .unknown w

/-- What the decoder reads from a table word. -/
def decodeTableWord (nbits w : Nat) : Option Instr :=
  match decode (tableRequest nbits w) with
  | .ok i => some i
  | .error _ => none

end Sys2Proof
end

