-- ==== Sys2Proof/Machine/State.lean ====
section
/-! DEFINITION. The state of APD: the twelve registers of 10_state.md R20 and, as the model's own field, the
requests the caller has still to present. Reset values are those of R38. -/

namespace Sys2Proof.Machine

/-- The registers of R20, under the spec's names, and `input`. -/
structure State where
  /-- R21: a sample has been taken since reset. -/
  prevValid : Bool
  /-- R22: the sample of the most recent `TICK_S`. -/
  prevSample : Numfmt
  /-- R23: the oldest buffered raw delta. -/
  dbuf0 : Numfmt
  dbuf1 : Numfmt
  /-- R23: the newest buffered raw delta. -/
  dbuf2 : Numfmt
  /-- R24: the running maximum. -/
  maxPeakMagnitude : Numfmt
  /-- R25: a peak is pending. -/
  pkValid : Bool
  pkValue : Numfmt
  pkPos : Ticks
  /-- R26: ticks since the last extreme sample, saturating. -/
  tickCnt : Ticks
  /-- R27: the framing state. -/
  halfBitCount : Count
  /-- R28: the address shift register. -/
  bitAccumulator : Addr
  /-- R29: the value of the most recently finalized Peak. -/
  lastPeakSign : Numfmt
  /-- The model's own field (log entry 3), no register of APD: the requests still to come, the next one first.
  The caller presents one at each clock edge (R65, R58). -/
  input : List Request
  deriving DecidableEq, Repr

/-- Why the machine faults: never. APD "raises no exception, trap or fault" (60_exceptions.md R160), so the
type has no constructor. -/
inductive Fault where
  deriving DecidableEq, Repr

/-- Why a step is refused. -/
inductive Refusal where
  /-- An operation without a meaning yet, by its mnemonic. Raised by `exec`'s refused arms only; there are
  none. Safe. -/
  | notModelled (mnemonic : String)
  /-- `FSM_HALF`, `FSM_FULL` or `FSM_LONG` would carry `half_bit_count` above 14. Raised by `advance`. No run
  from reset reaches it (R136, R139): from a stored 13 or 15 the rules give no value (93 U4 "do not extend the
  machine there"), and a row run by itself may be run where it is not selected. Safe (log entry 5). -/
  | countAboveTerminal
  /-- The next request is no operation. Raised by `step`; never for a command (R81). Safe (log entry 7). -/
  | badWord (e : DecodeError)
  /-- An operand that is no value of the `NUMFMT` in force. Raised by `execIn`; never under the reference format,
  so never by `exec` or `step` (R83, R188, U6: a model refuses it). Safe (log entry 1). -/
  | outsideFormat
  deriving DecidableEq, Repr

/-- The machine right after reset (R38); nothing is presented yet. -/
def State.reset : State where
  prevValid := false
  prevSample := 0
  dbuf0 := 0
  dbuf1 := 0
  dbuf2 := 0
  maxPeakMagnitude := 0
  pkValid := false
  pkValue := 0
  pkPos := 0
  tickCnt := 0
  halfBitCount := 0
  bitAccumulator := 0
  lastPeakSign := 0
  input := []

end Sys2Proof.Machine
end

