-- ==== Sys2Proof/Machine/Flags.lean ====
section
/-! DEFINITION. The conditions computed within one step and never stored (10_state.md R34): `A`, `V`, `M` of the
peak detector (30_encoding.md R68) and `T`, `Z`, `S`, `P`, `G` of the framing state machine (R70), each with the
word it is packed into. -/

namespace Sys2Proof.Machine

/-- The threshold of this tick: a transient value, not a register (R101). -/
def thresholdIn (fmt : NumberFormat) (s : State) : Numfmt :=
  fmt.mul (fmt.literal config.threshRatio) s.maxPeakMagnitude

/-- The threshold in the reference format. -/
def threshold (s : State) : Numfmt :=
  thresholdIn exactFormat s

/-- `A`: the delta is strictly above the threshold (R68, R102). -/
def condAIn (fmt : NumberFormat) (d : Numfmt) (s : State) : Bool :=
  decide (thresholdIn fmt s < magnitude d)

/-- `A` in the reference format. -/
def condA (d : Numfmt) (s : State) : Bool :=
  condAIn exactFormat d s

/-- `V`: a peak is pending (R68). -/
def condV (s : State) : Bool :=
  s.pkValid

/-- `M`: the delta extends the pending peak, with the same sign and a strictly larger magnitude (R68). -/
def condM (d : Numfmt) (s : State) : Bool :=
  s.pkValid && decide (sign d = sign s.pkValue) && decide (magnitude s.pkValue < magnitude d)

/-- The PD word `{A, V, M}` (R68). -/
def pdWord (d : Numfmt) (s : State) : BitVec 3 :=
  BitVec.ofBool (condA d s) ++ BitVec.ofBool (condV s) ++ BitVec.ofBool (condM d s)

/-- `T`: the terminal state (R70, R121). -/
def condT (s : State) : Bool :=
  decide (s.halfBitCount = config.hbcMax)

/-- `Z`: the idle state (R70, R121). -/
def condZ (s : State) : Bool :=
  decide (s.halfBitCount = 0)

/-- `S`: the Peak has the sign of the one before it (R70, R121, D17). -/
def condS (pk : Peak) (s : State) : Bool :=
  decide (sign pk.value = sign s.lastPeakSign)

/-- `P`: the count is odd (R70, R121). -/
def condP (s : State) : Bool :=
  oddCount s.halfBitCount

/-- The FSM word `{T, Z, S, P, G[1], G[0]}` (R70). -/
def fsmWord (pk : Peak) (s : State) : BitVec 6 :=
  BitVec.ofBool (condT s) ++ BitVec.ofBool (condZ s) ++ BitVec.ofBool (condS pk s) ++ BitVec.ofBool (condP s)
    ++ gapCode (gapClass pk.position)

end Sys2Proof.Machine
end

