-- ==== Sys2Proof/Machine/Ops.lean ====
section
/-! DEFINITION. The operations over the registers that several rules share. There is no memory to access and no
exception to take (20_memory.md R50, 60_exceptions.md R160); what stands in for both is the loss of framing
(R164, R181), `invalidateFraming`. -/

namespace Sys2Proof.Machine

/-- What running an operation ends in. -/
abbrev Result := Host.Outcome State Fault Refusal

/-- Statement order of the pseudocode (R10): the second part sees the writes of the first; a refusal ends it. -/
def andThen (r : Result) (f : State → Result) : Result :=
  match r with
  | .next s => f s
  | .fault e => .fault e
  | .refused e => .refused e

/-- `half_bit_count <- 0` and nothing else (R181): the framing errors (R125, R129) and `CLEAR` (R153). -/
def invalidateFraming (s : State) : State :=
  { s with halfBitCount := 0 }

/-- The write that starts a frame (R123). -/
def startFrame (s : State) : State :=
  { s with halfBitCount := config.hbcStart, bitAccumulator := 0 }

/-- `shift_in()` (R130): the parity of the count enters at bit 5, the other bits move down, bit 0 is lost. -/
def shiftIn (s : State) : State :=
  { s with bitAccumulator := BitVec.ofBool (oddCount s.halfBitCount) ++ s.bitAccumulator.extractLsb' 1 5 }

/-- The count advanced by `n` half-bits, then `shift_in()` (R126, R127, R128). The sum is at most 14 wherever the
rules apply (R136); above that the model refuses (93 U4, log entry 5). -/
def advance (n : Nat) (s : State) : Result :=
  if s.halfBitCount.toNat + n ≤ config.hbcMax.toNat then
    .next (shiftIn { s with halfBitCount := s.halfBitCount + BitVec.ofNat 4 n })
  else .refused .countAboveTerminal

/-- `last_peak_sign <- value` (R131). -/
def recordPeak (v : Numfmt) (s : State) : State :=
  { s with lastPeakSign := v }

/-- The fold of 13 to 14 (R132). -/
def foldCount (s : State) : State :=
  if s.halfBitCount = config.hbcFold then { s with halfBitCount := config.hbcMax } else s

/-- The pending peak's value and position, the tick counter restarted (R103, R104). -/
def setPeak (v : Numfmt) (p : Ticks) (s : State) : State :=
  { s with pkValue := v, pkPos := p, tickCnt := 0 }

/-- `pk_valid <- 0` (R105, R106). -/
def clearPending (s : State) : State :=
  { s with pkValid := false }

/-- The pending peak as a Peak (R25). -/
def pendingPeak (s : State) : Peak :=
  ⟨s.pkValue, s.pkPos⟩

end Sys2Proof.Machine
end

