-- ==== Sys2Proof/Machine/Framing.lean ====
section
/-! DEFINITION. The framing state machine and address assembler (42_framing_fsm.md). A row's meaning is its
pseudocode; which row runs is decided by `runRow` from the conditions, in the source's order (R120, R121). The
rows read nothing of the Peak beyond the word that selects them; `FSM_POST` records its value. -/

namespace Sys2Proof.Machine

/-- R122: nothing is written. -/
def execFsmHold (_pk : Peak) (s : State) : Result :=
  .next s

/-- R123. -/
def execFsmStart (_pk : Peak) (s : State) : Result :=
  .next (startFrame s)

/-- R124: nothing is written. -/
def execFsmNoise (_pk : Peak) (s : State) : Result :=
  .next s

/-- R125, `FE_SIGN` (R161). -/
def execFsmSignerr (_pk : Peak) (s : State) : Result :=
  .next (invalidateFraming s)

/-- R126. -/
def execFsmHalf (_pk : Peak) (s : State) : Result :=
  advance 1 s

/-- R127. -/
def execFsmFull (_pk : Peak) (s : State) : Result :=
  advance 2 s

/-- R128. -/
def execFsmLong (_pk : Peak) (s : State) : Result :=
  advance 3 s

/-- R129, `FE_TIMING` (R161). -/
def execFsmBadtime (_pk : Peak) (s : State) : Result :=
  .next (invalidateFraming s)

/-- R131, R132: record the Peak's value, then fold 13 to 14. -/
def execFsmPost (v : Numfmt) (s : State) : Result :=
  .next (foldCount (recordPeak v s))

/-- A Peak in the terminal state, by `TERMINAL_POLICY` (R7, R122, D9). -/
def runTerminal (pk : Peak) (s : State) : Result :=
  match config.terminalPolicy with
  | .hold => execFsmHold pk s

/-- The one row that a Peak selects (R120, R121, R163): terminal state, then idle state, then polarity, then
timing. -/
def runRow (pk : Peak) (s : State) : Result :=
  if condT s then runTerminal pk s
  else if condZ s then
    if gapClass pk.position = .normal then execFsmStart pk s else execFsmNoise pk s
  else if condS pk s then execFsmSignerr pk s
  else
    match gapClass pk.position with
    | .short => if condP s then execFsmBadtime pk s else execFsmHalf pk s
    | .normal => execFsmFull pk s
    | .long => if condP s then execFsmLong pk s else execFsmBadtime pk s
    | .other => execFsmBadtime pk s

/-- `finalize(v, p)` (R10, R110, R120): the state machine on one Peak. It is also `PEAK v, p` of R85. -/
def finalize (pk : Peak) (s : State) : Result :=
  andThen (runRow pk s) (execFsmPost pk.value)

end Sys2Proof.Machine
end

