-- ==== Sys2Proof/Machine/PeakDetector.lean ====
section
/-! DEFINITION. The adaptive peak detector and inter-peak interval measurer (41_peak_detector.md). A branch's
meaning is its pseudocode; which branch runs is decided by `runBranch` from the conditions (R102). -/

namespace Sys2Proof.Machine

/-- R101: the running maximum is raised; the threshold is `threshold` of the state after it. -/
def execPdTrack (d : Numfmt) (s : State) : Result :=
  .next { s with maxPeakMagnitude := larger s.maxPeakMagnitude (magnitude d) }

/-- R103: the position is the gap since the previous peak's extreme sample (90_conflicts.md C1). -/
def execPdStart (d : Numfmt) (s : State) : Result :=
  .next { setPeak d s.tickCnt s with pkValid := true }

/-- R104. -/
def execPdMerge (d : Numfmt) (s : State) : Result :=
  .next (setPeak d (satInc s.pkPos) s)

/-- R105: the delta is examined by the selection and then dropped. -/
def execPdFinalReject (_d : Numfmt) (s : State) : Result :=
  andThen (finalize (pendingPeak s) s) fun t => .next (clearPending t)

/-- R106. -/
def execPdFinalBelow (s : State) : Result :=
  andThen (finalize (pendingPeak s) s) fun t => .next (clearPending t)

/-- R107: no statement. -/
def execPdIdle (s : State) : Result :=
  .next s

/-- R108. -/
def execPdCount (s : State) : Result :=
  .next { s with tickCnt := satInc s.tickCnt }

/-- `PD_DECAY` (R109). -/
def pdDecayIn (fmt : NumberFormat) (s : State) : Result :=
  .next { s with maxPeakMagnitude := fmt.mul s.maxPeakMagnitude (fmt.literal config.decay) }

/-- R109, in the reference format. -/
def execPdDecay (s : State) : Result :=
  pdDecayIn exactFormat s

/-- The one branch that the conditions select (R69, R102), on the state `PD_TRACK` left. -/
def runBranchIn (fmt : NumberFormat) (d : Numfmt) (s : State) : Result :=
  if condAIn fmt d s then
    if condV s then
      if condM d s then execPdMerge d s else execPdFinalReject d s
    else execPdStart d s
  else if condV s then execPdFinalBelow s
  else execPdIdle s

/-- The branch in the reference format. -/
def runBranch (d : Numfmt) (s : State) : Result :=
  runBranchIn exactFormat d s

/-- One tick of the detector, in the order of R100: `PD_TRACK`, the branch, `PD_COUNT`, `PD_DECAY`. -/
def tickIn (fmt : NumberFormat) (d : Numfmt) (s : State) : Result :=
  andThen (andThen (andThen (execPdTrack d s) (runBranchIn fmt d)) execPdCount) (pdDecayIn fmt)

/-- One tick in the reference format. -/
def tick (d : Numfmt) (s : State) : Result :=
  tickIn exactFormat d s

end Sys2Proof.Machine
end

