-- ==== Sys2Proof/Machine/Preprocessor.lean ====
section
/-! DEFINITION. The signal preprocessor (40_preprocessor.md). `PRE_DELTA` and `PRE_FILTER` hand on a value that is
no register: each is a function to that value and the state after it, and its meaning is the state (log
entry 11). -/

namespace Sys2Proof.Machine

/-- `PRE_DELTA` (R91): the raw delta, and the state that has taken the sample. -/
def runPreDeltaIn (fmt : NumberFormat) (x : Numfmt) (s : State) : Numfmt × State :=
  (if s.prevValid then fmt.sub x s.prevSample else 0, { s with prevSample := x, prevValid := true })

/-- `PRE_DELTA` in the reference format. -/
def runPreDelta (x : Numfmt) (s : State) : Numfmt × State :=
  runPreDeltaIn exactFormat x s

/-- `PRE_FILTER` (R92): the filtered delta, summed in the order the rule writes; no register is written. -/
def runPreFilterIn (fmt : NumberFormat) (raw : Numfmt) (s : State) : Numfmt × State :=
  (fmt.div (fmt.add (fmt.add (fmt.add raw s.dbuf0) s.dbuf1) s.dbuf2) (fmt.literal config.filterDiv), s)

/-- `PRE_FILTER` in the reference format. -/
def runPreFilter (raw : Numfmt) (s : State) : Numfmt × State :=
  runPreFilterIn exactFormat raw s

/-- R91. -/
def execPreDelta (x : Numfmt) (s : State) : Result :=
  .next (runPreDelta x s).2

/-- R92. -/
def execPreFilter (raw : Numfmt) (s : State) : Result :=
  .next (runPreFilter raw s).2

/-- R93: the oldest raw delta is dropped and the new one appended. -/
def execPreShift (raw : Numfmt) (s : State) : Result :=
  .next { s with dbuf0 := s.dbuf1, dbuf1 := s.dbuf2, dbuf2 := raw }

end Sys2Proof.Machine
end

