-- ==== Sys2Proof/Machine/Commands.lean ====
section
/-! DEFINITION. The commands (43_commands.md). -/

namespace Sys2Proof.Machine

/-- R151: every register takes its reset value (R38); what the caller presents next is no register. -/
def execReset (s : State) : Result :=
  .next { State.reset with input := s.input }

/-- R152: no statement. -/
def execNop (s : State) : Result :=
  .next s

/-- R153: `half_bit_count <- 0` and nothing else. -/
def execClear (s : State) : Result :=
  .next (invalidateFraming s)

/-- `TICK_S` (R154): the preprocessor, then one tick of the detector on the filtered delta. -/
def tickSIn (fmt : NumberFormat) (x : Numfmt) (s : State) : Result :=
  let delta := runPreDeltaIn fmt x s
  let filtered := runPreFilterIn fmt delta.1 delta.2
  andThen (execPreShift delta.1 filtered.2) (tickIn fmt filtered.1)

/-- R154, in the reference format. -/
def execTickS (x : Numfmt) (s : State) : Result :=
  tickSIn exactFormat x s

/-- R155: one tick of the detector on the delta at the port, in the reference format. -/
def execTickD (d : Numfmt) (s : State) : Result :=
  tick d s

end Sys2Proof.Machine
end

