-- ==== Sys2Proof/Machine/Dispatch.lean ====
section
/-! DEFINITION. One arm for every operation: its meaning, called by its full name. -/

namespace Sys2Proof.Machine

def exec (i : Instr) (s : State) : Host.Outcome State Fault Refusal :=
  match i with
  | .reset => Sys2Proof.Machine.execReset s
  | .nop => Sys2Proof.Machine.execNop s
  | .tickS x => Sys2Proof.Machine.execTickS x s
  | .tickD d => Sys2Proof.Machine.execTickD d s
  | .clear => Sys2Proof.Machine.execClear s
  | .preDelta x => Sys2Proof.Machine.execPreDelta x s
  | .preFilter raw => Sys2Proof.Machine.execPreFilter raw s
  | .preShift raw => Sys2Proof.Machine.execPreShift raw s
  | .pdTrack d => Sys2Proof.Machine.execPdTrack d s
  | .pdStart d => Sys2Proof.Machine.execPdStart d s
  | .pdMerge d => Sys2Proof.Machine.execPdMerge d s
  | .pdFinalReject d => Sys2Proof.Machine.execPdFinalReject d s
  | .pdFinalBelow => Sys2Proof.Machine.execPdFinalBelow s
  | .pdIdle => Sys2Proof.Machine.execPdIdle s
  | .pdCount => Sys2Proof.Machine.execPdCount s
  | .pdDecay => Sys2Proof.Machine.execPdDecay s
  | .fsmHold pk => Sys2Proof.Machine.execFsmHold pk s
  | .fsmStart pk => Sys2Proof.Machine.execFsmStart pk s
  | .fsmNoise pk => Sys2Proof.Machine.execFsmNoise pk s
  | .fsmSignerr pk => Sys2Proof.Machine.execFsmSignerr pk s
  | .fsmHalf pk => Sys2Proof.Machine.execFsmHalf pk s
  | .fsmFull pk => Sys2Proof.Machine.execFsmFull pk s
  | .fsmLong pk => Sys2Proof.Machine.execFsmLong pk s
  | .fsmBadtime pk => Sys2Proof.Machine.execFsmBadtime pk s
  | .fsmPost v => Sys2Proof.Machine.execFsmPost v s

end Sys2Proof.Machine
end

