-- ==== Sys2Proof/Machine/Step.lean ====
section
/-! DEFINITION. One step: the next request is decoded and run (20_memory.md R55, R58; 43_commands.md R150, R156). -/

namespace Sys2Proof.Machine

/-- One clock edge. With nothing presented the machine keeps its state, as under `NOP` (R152, R170, R171;
log entry 3). -/
def step (s : State) : Host.Outcome State Fault Refusal :=
  match s.input with
  | [] => .next s
  | r :: rest =>
    match decode r with
    | .ok i => exec i { s with input := rest }
    | .error e => .refused (.badWord e)

/-- `s` with the request of a table word next in line (log entries 4 and 8). -/
def State.withFetchWord (s : State) (nbits w : Nat) : State :=
  { s with input := tableRequest nbits w :: s.input }

end Sys2Proof.Machine
end

