-- ==== Sys2Proof/Machine/Outputs.lean ====
section
/-! DEFINITION. The output ports: functions of the registers alone (10_state.md R30, 42_framing_fsm.md R133 to
R135, R143). -/

namespace Sys2Proof.Machine

/-- R133: the port always carries the accumulator; it means an address only while `done = 1` (93 U1). -/
def decodedAddress (s : State) : Addr :=
  s.bitAccumulator

/-- R134: `(half_bit_count * 100) div 14`, truncated (D8). -/
def progressPercent (s : State) : Percent :=
  BitVec.ofNat 7 (s.halfBitCount.toNat * config.progressScale / config.hbcMax.toNat)

/-- R135: the completion flag, a level. -/
def done (s : State) : BitVec 1 :=
  BitVec.ofBool (decide (s.halfBitCount = config.hbcMax))

/-- R135. -/
def hbcOut (s : State) : Count :=
  s.halfBitCount

/-- What a claim is stated through (R12): the four ports. -/
structure Outputs where
  decodedAddress : Addr
  progressPercent : Percent
  done : BitVec 1
  hbcOut : Count
  deriving DecidableEq, Repr

/-- The ports of a state (R30). -/
def outputs (s : State) : Outputs :=
  ⟨decodedAddress s, progressPercent s, done s, hbcOut s⟩

/-- The address as the caller may use it (R133, R186, 93 U1): none while `done = 0`. -/
def validAddress (s : State) : Option Addr :=
  if done s = 1 then some (decodedAddress s) else none

end Sys2Proof.Machine
end

