-- ==== Sys2Proof/Machine/Stimulus.lean ====
section
/-! DEFINITION. How the caller drives the machine: a run as the fold of the step over a command sequence
(20_memory.md R58, 43_commands.md R156), the stimulus notation with its pseudo-operations (30_encoding.md R84, R85)
and the encoder of the line code (R79). -/

namespace Sys2Proof.Machine

/-- A run: each command completely before the next (R58). -/
def run : List Instr → State → Result
  | [], s => .next s
  | i :: rest, s => andThen (exec i s) (run rest)

/-- Peaks applied to the state machine one after the other (`PEAK v, p` of R85). -/
def injectPeaks : List Peak → State → Result
  | [], s => .next s
  | pk :: rest, s => andThen (finalize pk s) (injectPeaks rest)

/-- `WAIT n` (R85). -/
def waitTicks (n : Nat) : List Instr :=
  List.replicate n (.tickD 0)

/-- `REPS n, x` (R85). -/
def repeatSample (n : Nat) (x : Numfmt) : List Instr :=
  List.replicate n (.tickS x)

/-- `IMP v, g` for `g ≥ 1` (R85). -/
def impulse (v : Numfmt) (g : Nat) : List Instr :=
  waitTicks (g - 1) ++ [.tickD v]

/-- The half-bit position at which the transition of cell `k` lands (R76, R79). -/
def landing (a : Addr) (k : Nat) : Nat :=
  if a.getLsbD k then 3 + 2 * k else 4 + 2 * k

/-- `g[k]`: half-bits from the transition before to that of cell `k`; the preamble ends at 2 (R79). -/
def gapHalfBits (a : Addr) : Nat → Nat
  | 0 => landing a 0 - 2
  | k + 1 => landing a (k + 1) - landing a k

/-- The gap class of a gap of so many half-bits (R74). -/
def classOfHalfBits (n : Nat) : GapClass :=
  if n = 1 then .short else if n = 2 then .normal else if n = 3 then .long else .other

/-- The impulse of cell `k`: the polarity alternates, cell 0 is positive (R79, R85). -/
def cellImpulse (a : Addr) (v : Numfmt) (k : Nat) : List Instr :=
  impulse (if k % 2 = 0 then v else -v) (5 * gapHalfBits a k)

/-- `FRAME a, v` for `v > 0` (R85). -/
def frame (a : Addr) (v : Numfmt) : List Instr :=
  .tickD v :: impulse (-v) 10
    ++ (cellImpulse a v 0 ++ cellImpulse a v 1 ++ cellImpulse a v 2
      ++ cellImpulse a v 3 ++ cellImpulse a v 4 ++ cellImpulse a v 5)
    ++ waitTicks 1

/-- A line cut into its words; a blank or a comma ends a word (R84, R85). -/
def wordsOf : List Char → List (List Char)
  | [] => []
  | c :: rest =>
    if c = ' ' ∨ c = ',' then [] :: wordsOf rest
    else
      match wordsOf rest with
      | [] => [[c]]
      | w :: ws => (c :: w) :: ws

/-- An unsigned decimal integer. -/
def digitsOf (cs : List Char) : Option Nat :=
  if cs.isEmpty || !cs.all Char.isDigit then none
  else some (cs.foldl (fun n c => 10 * n + (c.toNat - 48)) 0)

/-- An unsigned integer, decimal or fraction, read as an exact rational (R84). -/
def unsignedOf (cs : List Char) : Option Numfmt :=
  if cs.contains '/' then
    match digitsOf (cs.takeWhile (· ≠ '/')), digitsOf ((cs.dropWhile (· ≠ '/')).drop 1) with
    | some n, some m => if m = 0 then none else some ((n : Numfmt) / (m : Numfmt))
    | _, _ => none
  else if cs.contains '.' then
    let fraction := (cs.dropWhile (· ≠ '.')).drop 1
    match digitsOf (cs.takeWhile (· ≠ '.')), digitsOf fraction with
    | some n, some m => some ((n : Numfmt) + (m : Numfmt) / (10 : Numfmt) ^ fraction.length)
    | _, _ => none
  else (digitsOf cs).map fun n => (n : Numfmt)

/-- An optionally signed number (R84); the minus sign is `-` or, as 95_test_vectors.md prints it, `−`
(DESIGN CHOICE, log entry 14). -/
def numberOf : List Char → Option Numfmt
  | [] => none
  | c :: rest =>
    if c = '-' ∨ c = '−' then (unsignedOf rest).map fun x => -x
    else if c = '+' then unsignedOf rest
    else unsignedOf (c :: rest)

/-- The commands that a line of stimulus stands for: none for a blank or comment line (R84), the expansion of a
pseudo-operation (R85), no answer for anything else. The counts `n` and `g` and the address `a` are written as bare
unsigned decimal digits; a sign, a point or a fraction there has no reading, although R84 lets a number have them
(DESIGN CHOICE, log entry 14). `PEAK` is no command and has no line here: it is `finalize`. -/
def lineOf (line : List Char) : Option (List Instr) :=
  match (wordsOf (line.takeWhile (· ≠ '#'))).filter fun w => !w.isEmpty with
  | [] => some []
  | [op] =>
    if op = ['R', 'E', 'S', 'E', 'T'] then some [.reset]
    else if op = ['N', 'O', 'P'] then some [.nop]
    else if op = ['C', 'L', 'E', 'A', 'R'] then some [.clear]
    else none
  | [op, a] =>
    if op = ['T', 'I', 'C', 'K', 'S'] then (numberOf a).map fun x => [.tickS x]
    else if op = ['T', 'I', 'C', 'K', 'D'] then (numberOf a).map fun d => [.tickD d]
    else if op = ['W', 'A', 'I', 'T'] then (digitsOf a).map waitTicks
    else none
  | [op, a, b] =>
    if op = ['R', 'E', 'P', 'S'] then
      match digitsOf a, numberOf b with
      | some n, some x => some (repeatSample n x)
      | _, _ => none
    else if op = ['I', 'M', 'P'] then
      match numberOf a, digitsOf b with
      | some v, some g => if 1 ≤ g then some (impulse v g) else none
      | _, _ => none
    else if op = ['F', 'R', 'A', 'M', 'E'] then
      match digitsOf a, numberOf b with
      | some n, some v => if n < 2 ^ config.addrW ∧ 0 < v then some (frame (BitVec.ofNat 6 n) v) else none
      | _, _ => none
    else none
  | _ => none

end Sys2Proof.Machine
end

