-- ==== Sys2Proof/Safety.lean ====
section
/-! DEFINITION. What claims call a good state: the invariants of 10_state.md R39 and R40 and of
41_peak_detector.md R115, the cells of 42_framing_fsm.md R140, and the scaling relation of R114. -/

namespace Sys2Proof.Machine

/-- The counts that a step can leave in the register (R139): all but 1, 13 and 15. -/
abbrev LegalCount (c : Count) : Prop :=
  c ≠ 1 ∧ c ≠ 13 ∧ c ≠ 15

/-- R39, and that the caller presents commands only (R31). -/
abbrev Invariant (s : State) : Prop :=
  LegalCount s.halfBitCount ∧ 0 ≤ s.maxPeakMagnitude ∧ (s.pkValid = true → s.pkValue ≠ 0) ∧
    (∀ r ∈ s.input, r.isCommand = true)

/-- R40: when the sign of the last Peak is examined, a Peak has been recorded. -/
abbrev SignRecorded (s : State) : Prop :=
  s.halfBitCount ≠ 0 → s.halfBitCount ≠ 14 → s.lastPeakSign ≠ 0

/-- R112 and R115: a pending peak was last written in the tick before, and once a Peak has been finalized the
next one is at least two ticks after it. -/
abbrev GapAtLeastTwo (s : State) : Prop :=
  (s.pkValid = true → s.tickCnt = 1) ∧
    (s.lastPeakSign ≠ 0 → if s.pkValid then 2 ≤ s.pkPos.toNat else 2 ≤ s.tickCnt.toNat)

/-- The bit cell of a half-bit position (R140). -/
def cell (p : Nat) : Nat :=
  if p % 2 = 0 then p / 2 else (p + 1) / 2

/-- Two states that differ by the factor `c` in every delta and by `x ↦ c * x + b` in every sample (R114). -/
structure Scaled (c b : Numfmt) (s t : State) : Prop where
  prevValid : t.prevValid = s.prevValid
  prevSample : s.prevValid = true → t.prevSample = c * s.prevSample + b
  dbuf0 : t.dbuf0 = c * s.dbuf0
  dbuf1 : t.dbuf1 = c * s.dbuf1
  dbuf2 : t.dbuf2 = c * s.dbuf2
  maxPeakMagnitude : t.maxPeakMagnitude = magnitude c * s.maxPeakMagnitude
  pkValid : t.pkValid = s.pkValid
  pkValue : t.pkValue = c * s.pkValue
  pkPos : t.pkPos = s.pkPos
  tickCnt : t.tickCnt = s.tickCnt
  halfBitCount : t.halfBitCount = s.halfBitCount
  bitAccumulator : t.bitAccumulator = s.bitAccumulator
  lastPeakSign : t.lastPeakSign = c * s.lastPeakSign

/-- The commands that the two runs of R114 get in the same step. -/
inductive ScaledCommand (c b : Numfmt) : Instr → Instr → Prop where
  | reset : ScaledCommand c b .reset .reset
  | nop : ScaledCommand c b .nop .nop
  | clear : ScaledCommand c b .clear .clear
  | tickS (x : Numfmt) : ScaledCommand c b (.tickS x) (.tickS (c * x + b))
  | tickD (d : Numfmt) : ScaledCommand c b (.tickD d) (.tickD (c * d))

/-- The table of R138: from a count, whether the signs are the same, and the gap class, to the count after the
fold and the bit shifted in. -/
def transitionTable (count : Nat) (same : Bool) (g : GapClass) : Nat × Option Bool :=
  if count = 0 then (if g = .normal then 2 else 0, none)
  else if count = 14 then (14, none)
  else if same then (0, none)
  else if count % 2 = 0 then
    match g with
    | .short => (if count = 12 then 14 else count + 1, some true)
    | .normal => (count + 2, some false)
    | .long => (0, none)
    | .other => (0, none)
  else
    match g with
    | .normal => (if count = 11 then 14 else count + 2, some true)
    | .long => (count + 3, some false)
    | .short => (0, none)
    | .other => (0, none)

end Sys2Proof.Machine
end

