-- ==== Sys2Proof/Certificates/Slice0/Obligations.lean ====
section
/-! DEFINITION. The statements for the provers. Rules are cited as R<n> of spec/. -/

open Sys2Proof Sys2Proof.Machine

/-! ## Selection words and the decoder -/

/-- R66, R67: every word of the command port selects its command; the operand is `data_in` as it stands. -/
def Obligations.CommandWordSelectsItsCommand : Prop :=
  ∀ (w : BitVec 3) (x : Numfmt), decode (.cmd w x) = .ok
    (if w.getLsbD 2 then .reset
     else if w.getLsbD 1 then (if w.getLsbD 0 then .clear else .tickD x)
     else if w.getLsbD 0 then .tickS x else .nop)

/-- R69: the PD word `{A, V, M}` selects its branch. With `A = 1` the delta is not 0 (log entry 7). -/
def Obligations.PdWordSelectsItsBranch : Prop :=
  ∀ (w : BitVec 3) (d : Numfmt), (w.getLsbD 2 = true → d ≠ 0) → decode (.pd w d) = .ok
    (if w.getLsbD 2 then
       if w.getLsbD 1 then (if w.getLsbD 0 then .pdMerge d else .pdFinalReject d) else .pdStart d
     else if w.getLsbD 1 then .pdFinalBelow else .pdIdle)

/-- R72: the FSM word `{T, Z, S, P, G}` selects its row. `G` is the class of the Peak's position (R71). -/
def Obligations.FsmWordSelectsItsRow : Prop :=
  ∀ (w : BitVec 6) (pk : Peak), fsmGap w = gapCode (gapClass pk.position) → decode (.fsm w pk) = .ok
    (if w.getLsbD 5 then .fsmHold pk
     else if w.getLsbD 4 then
       (if w.extractLsb' 0 2 = 0b10 then .fsmStart pk else .fsmNoise pk)
     else if w.getLsbD 3 then .fsmSignerr pk
     else if w.extractLsb' 0 2 = 0b01 then (if w.getLsbD 2 then .fsmBadtime pk else .fsmHalf pk)
     else if w.extractLsb' 0 2 = 0b10 then .fsmFull pk
     else if w.extractLsb' 0 2 = 0b11 then (if w.getLsbD 2 then .fsmLong pk else .fsmBadtime pk)
     else .fsmBadtime pk)

/-- The model's choice (log entry 7): a PD word with `A = 1` on a zero delta, and an FSM word whose bits `G` are not
the class of its Peak's position, are rejected by name. The machine forms neither. -/
def Obligations.ContradictoryWordsAreRejected : Prop :=
  (∀ w : BitVec 3, w.getLsbD 2 = true → decode (.pd w 0) = .error .zeroDelta) ∧
  (∀ (w : BitVec 6) (pk : Peak), fsmGap w ≠ gapCode (gapClass pk.position) →
    decode (.fsm w pk) = .error .gapMismatch) ∧
  (∀ (d : Numfmt) (s : State), 0 ≤ s.maxPeakMagnitude → ¬ ((pdWord d s).getLsbD 2 = true ∧ d = 0)) ∧
  (∀ (pk : Peak) (s : State), fsmGap (fsmWord pk s) = gapCode (gapClass pk.position))

/-- R66, R69, R72 and V44, V31: some words written out, and that each table covers every word exactly once. -/
def Obligations.TableWordsDecodeAndCover : Prop :=
  decode (.cmd 0b001 5) = .ok (.tickS 5) ∧ decode (.cmd 0b101 5) = .ok .reset ∧
  decode (.pd 0b111 (-1)) = .ok (.pdMerge (-1)) ∧ decode (.pd 0b001 0) = .ok .pdIdle ∧
  decode (.fsm 0b000001 ⟨1, 5⟩) = .ok (.fsmHalf ⟨1, 5⟩) ∧
  decode (.fsm 0b000111 ⟨-1, 15⟩) = .ok (.fsmLong ⟨-1, 15⟩) ∧
  (∀ w : BitVec 3, (cmdRows.filter fun r => r.matches w).length = 1) ∧
  (∀ w : BitVec 3, (pdRows.filter fun r => r.matches w).length = 1) ∧
  (∀ w : BitVec 6, (fsmRows.filter fun r => r.matches w).length = 1)

/-- R102: the branch that runs is the one that the decoder reads from the PD word of the tracked state. -/
def Obligations.BranchRunIsTheDecodedOne : Prop :=
  ∀ (d : Numfmt) (s : State), 0 ≤ s.maxPeakMagnitude →
    ∃ i, decode (.pd (pdWord d s) d) = .ok i ∧ runBranch d s = exec i s

/-- R120, R121: the row that runs is the one that the decoder reads from the FSM word. -/
def Obligations.RowRunIsTheDecodedOne : Prop :=
  ∀ (pk : Peak) (s : State),
    ∃ i, decode (.fsm (fsmWord pk s) pk) = .ok i ∧ runRow pk s = exec i s

/-- Decode and encode agree on every well-formed operation that has a selecting word. -/
def Obligations.DecodingInvertsEncoding : Prop :=
  ∀ (i : Instr) (r : Request), wellFormed i = true → encode i = some r → decode r = .ok i

/-- What the decoder answers is well formed and has a word of its own: no word selects an operation of R73. That it
is well formed is the model's choice (log entry 7): R69 and R72 give a word its row whatever the operand, and the
decoder rejects the words that contradict theirs. -/
def Obligations.DecodedOperationIsWellFormed : Prop :=
  ∀ (r : Request) (i : Instr), decode r = .ok i → wellFormed i = true ∧ (encode i).isSome = true

/-- R58, R65: a step takes the next request, decodes it and runs it on the state that has the rest still to come.
What is no operation is refused (log entry 7); with nothing presented the state stays (log entry 3). -/
def Obligations.StepRunsTheDecodedOperation : Prop :=
  (∀ (s : State) (r : Request) (rest : List Request) (i : Instr),
      s.input = r :: rest → decode r = .ok i → step s = exec i { s with input := rest }) ∧
  (∀ (s : State) (r : Request) (rest : List Request) (e : DecodeError),
      s.input = r :: rest → decode r = .error e → step s = .refused (.badWord e)) ∧
  (∀ s : State, s.input = [] → step s = .next s)

/-- R71: the gap class of every position, and its code. -/
def Obligations.GapClassFollowsTheWindows : Prop :=
  (∀ p : Ticks, gapClass p =
    if 4 ≤ p.toNat ∧ p.toNat ≤ 6 then .short
    else if 9 ≤ p.toNat ∧ p.toNat ≤ 11 then .normal
    else if 14 ≤ p.toNat ∧ p.toNat ≤ 16 then .long
    else .other) ∧
  gapCode .short = 0b01 ∧ gapCode .normal = 0b10 ∧ gapCode .long = 0b11 ∧ gapCode .other = 0b00

/-! ## The signal preprocessor -/

/-- R91: the raw delta, and the registers that remember the sample. -/
def Obligations.PreDeltaTakesTheSample : Prop :=
  ∀ (x : Numfmt) (s : State),
    exec (.preDelta x) s = .next { s with prevSample := x, prevValid := true } ∧
    (runPreDelta x s).1 = (if s.prevValid then x - s.prevSample else 0)

/-- R92: the filtered delta is the mean of the raw delta and the three buffered ones; no register is written. -/
def Obligations.PreFilterIsTheMeanOfFour : Prop :=
  ∀ (raw : Numfmt) (s : State),
    exec (.preFilter raw) s = .next s ∧
    (runPreFilter raw s).1 = (raw + s.dbuf0 + s.dbuf1 + s.dbuf2) / 4

/-- R93. -/
def Obligations.PreShiftDropsTheOldest : Prop :=
  ∀ (raw : Numfmt) (s : State),
    exec (.preShift raw) s = .next { s with dbuf0 := s.dbuf1, dbuf1 := s.dbuf2, dbuf2 := raw }

/-- R92, R91, R93: once three samples have followed a first one, the filtered delta of the next is a quarter of
its difference from that first one. -/
def Obligations.FilteredDeltaTelescopes : Prop :=
  ∀ (s t : State) (a b c x : Numfmt), s.prevValid = true → run [.tickS a, .tickS b, .tickS c] s = .next t →
    (runPreFilter (runPreDelta x t).1 (runPreDelta x t).2).1 = (x - s.prevSample) / 4

/-- R95: `TICK_D` leaves the preprocessor's registers alone. -/
def Obligations.TickDLeavesThePreprocessor : Prop :=
  ∀ (d : Numfmt) (s t : State), exec (.tickD d) s = .next t →
    t.prevValid = s.prevValid ∧ t.prevSample = s.prevSample ∧
    t.dbuf0 = s.dbuf0 ∧ t.dbuf1 = s.dbuf1 ∧ t.dbuf2 = s.dbuf2

/-- R154: `TICK_S` is the preprocessor and then one tick of the detector on the filtered delta. -/
def Obligations.TickSFiltersThenTicks : Prop :=
  ∀ (x : Numfmt) (s : State),
    let raw : Numfmt := if s.prevValid then x - s.prevSample else 0
    exec (.tickS x) s =
      exec (.tickD ((raw + s.dbuf0 + s.dbuf1 + s.dbuf2) / 4))
        { s with prevSample := x, prevValid := true, dbuf0 := s.dbuf1, dbuf1 := s.dbuf2, dbuf2 := raw }

/-! ## The peak detector -/

/-- R101: the maximum is raised, the threshold is half of it, and a delta is above the threshold exactly when it is
not 0 and more than half of the maximum before the tick. -/
def Obligations.PdTrackRaisesTheMaximum : Prop :=
  ∀ (d : Numfmt) (s : State), ∃ t : State,
    exec (.pdTrack d) s = .next t ∧
    t = { s with maxPeakMagnitude := max s.maxPeakMagnitude |d| } ∧
    threshold t = max s.maxPeakMagnitude |d| / 2 ∧
    (condA d t = true ↔ d ≠ 0 ∧ s.maxPeakMagnitude / 2 < |d|)

/-- R103. -/
def Obligations.PdStartOpensAPeak : Prop :=
  ∀ (d : Numfmt) (s : State),
    exec (.pdStart d) s = .next { s with pkValid := true, pkValue := d, pkPos := s.tickCnt, tickCnt := 0 }

/-- R104; the position saturates at 255 (R10). -/
def Obligations.PdMergeMovesThePeak : Prop :=
  ∀ (d : Numfmt) (s : State),
    exec (.pdMerge d) s =
      .next { s with pkValue := d, pkPos := BitVec.ofNat 8 (min 255 (s.pkPos.toNat + 1)), tickCnt := 0 }

/-- R105, R106: both finalizing branches hand the pending peak to the state machine and clear it. The count is one
that a run can leave (R139); elsewhere the rows may be refused (log entry 5). -/
def Obligations.FinalBranchesHandOverAndClear : Prop :=
  ∀ (d : Numfmt) (s : State), LegalCount s.halfBitCount →
    ∃ t, finalize ⟨s.pkValue, s.pkPos⟩ s = .next t ∧
      exec (.pdFinalReject d) s = .next { t with pkValid := false } ∧
      exec .pdFinalBelow s = .next { t with pkValid := false }

/-- R110: the state machine reads and writes `half_bit_count`, `bit_accumulator` and `last_peak_sign` only. -/
def Obligations.FinalizeTouchesOnlyFraming : Prop :=
  ∀ (pk : Peak) (s t u : State), finalize pk s = .next t →
    u.halfBitCount = s.halfBitCount → u.bitAccumulator = s.bitAccumulator → u.lastPeakSign = s.lastPeakSign →
    finalize pk u = .next { u with halfBitCount := t.halfBitCount, bitAccumulator := t.bitAccumulator,
                                   lastPeakSign := t.lastPeakSign }

/-- R107. -/
def Obligations.PdIdleChangesNothing : Prop :=
  ∀ s : State, exec .pdIdle s = .next s

/-- R108. -/
def Obligations.PdCountSaturates : Prop :=
  ∀ s : State, exec .pdCount s = .next { s with tickCnt := BitVec.ofNat 8 (min 255 (s.tickCnt.toNat + 1)) }

/-- R109. -/
def Obligations.PdDecayMultiplies : Prop :=
  ∀ s : State, exec .pdDecay s = .next { s with maxPeakMagnitude := s.maxPeakMagnitude * (99 / 100) }

/-- R100, R102, R103, R104, R107, R155: a tick that finalizes nothing, in full: it starts a peak, merges one, or
finds nothing. -/
def Obligations.TickDWithoutFinalizing : Prop :=
  ∀ (d : Numfmt) (s : State),
    let m : Numfmt := max s.maxPeakMagnitude |d|
    (s.pkValid = false → m / 2 < |d| → exec (.tickD d) s = .next
      { s with maxPeakMagnitude := m * (99 / 100), pkValid := true, pkValue := d, pkPos := s.tickCnt,
               tickCnt := 1 }) ∧
    (s.pkValid = true → m / 2 < |d| → sign d = sign s.pkValue → |s.pkValue| < |d| →
      exec (.tickD d) s = .next
      { s with maxPeakMagnitude := m * (99 / 100), pkValue := d,
               pkPos := BitVec.ofNat 8 (min 255 (s.pkPos.toNat + 1)), tickCnt := 1 }) ∧
    (s.pkValid = false → |d| ≤ m / 2 → exec (.tickD d) s = .next
      { s with maxPeakMagnitude := m * (99 / 100),
               tickCnt := BitVec.ofNat 8 (min 255 (s.tickCnt.toNat + 1)) })

/-- R100, R102, R105, R106, R155: a tick with a pending peak that is not merged finalizes it, in full. -/
def Obligations.TickDFinalizes : Prop :=
  ∀ (d : Numfmt) (s : State), s.pkValid = true → LegalCount s.halfBitCount →
    ¬ (max s.maxPeakMagnitude |d| / 2 < |d| ∧ sign d = sign s.pkValue ∧ |s.pkValue| < |d|) →
    ∃ t, finalize ⟨s.pkValue, s.pkPos⟩ s = .next t ∧
      exec (.tickD d) s = .next
        { s with maxPeakMagnitude := max s.maxPeakMagnitude |d| * (99 / 100), pkValid := false,
                 tickCnt := BitVec.ofNat 8 (min 255 (s.tickCnt.toNat + 1)),
                 halfBitCount := t.halfBitCount, bitAccumulator := t.bitAccumulator,
                 lastPeakSign := s.pkValue }

/-- A tick that finds no pending peak completes and leaves the framing state: at or under the threshold by R107 with
its condition (C9); above it by R103, which hands nothing to the state machine in that tick (R154, R155). -/
def Obligations.TickWithoutPendingPeakKeepsFraming : Prop :=
  ∀ (i : Instr) (s : State), s.pkValid = false → ((∃ x, i = .tickS x) ∨ ∃ d, i = .tickD d) →
    ∃ t, exec i s = .next t ∧ t.halfBitCount = s.halfBitCount ∧ t.bitAccumulator = s.bitAccumulator ∧
      t.lastPeakSign = s.lastPeakSign

/-- R108, R109, S5: `n` ticks with a zero delta and no pending peak multiply the maximum by 0.99 to the `n`, advance
the counter by `n` up to 255, and change nothing else. -/
def Obligations.QuietTicksDecayAndCount : Prop :=
  ∀ (n : Nat) (s : State), s.pkValid = false → 0 ≤ s.maxPeakMagnitude →
    run (waitTicks n) s = .next
      { s with maxPeakMagnitude := s.maxPeakMagnitude * (99 / 100) ^ n,
               tickCnt := BitVec.ofNat 8 (min 255 (s.tickCnt.toNat + n)) }

/-- R114: scaling every delta by one factor other than 0, and every sample by it with any offset, changes no
decision and no output: from related states related commands lead to related states. The second disjunct, both
commands refused, is the model's choice (log entry 5): R150 refuses no command, and the model refuses an advance
above 14, from counts that no run stores. -/
def Obligations.ScalingChangesNoDecision : Prop :=
  ∀ (c b : Numfmt) (s t : State) (i j : Instr), c ≠ 0 → Scaled c b s t → ScaledCommand c b i j →
    (∃ s' t', exec i s = .next s' ∧ exec j t = .next t' ∧ Scaled c b s' t' ∧ outputs s' = outputs t') ∨
    (∃ e, exec i s = .refused e ∧ exec j t = .refused e)

/-- R112, R115: a pending peak is one tick old, and after the first Peak every gap is at least 2. Kept by every step
while the caller presents commands. -/
def Obligations.StepKeepsGapAtLeastTwo : Prop :=
  ∀ s s' : State, Invariant s → GapAtLeastTwo s → step s = .next s' → GapAtLeastTwo s'

/-- R189: three equal deltas above the threshold give two peaks of one sign, the second at position 2. -/
def Obligations.PlateauGivesTwoPeaks : Prop :=
  ∀ (d : Numfmt) (s : State), s.pkValid = false → LegalCount s.halfBitCount → d ≠ 0 →
    s.maxPeakMagnitude / 2 < |d| →
    ∃ t u, run [.tickD d, .tickD d] s = .next t ∧ t.pkValid = false ∧ t.lastPeakSign = d ∧
      exec (.tickD d) t = .next u ∧ u.pkValid = true ∧ u.pkValue = d ∧ u.pkPos = 2

/-! ## The framing state machine -/

/-- R122: the row writes nothing, and a Peak in the terminal state only records its value. -/
def Obligations.FsmHoldKeepsTheTerminalState : Prop :=
  ∀ (pk : Peak) (s : State), exec (.fsmHold pk) s = .next s ∧
    (s.halfBitCount = 14 → finalize pk s = .next { s with lastPeakSign := pk.value })

/-- R123: the preamble gap, seen while idle, starts a frame. -/
def Obligations.FsmStartStartsAFrame : Prop :=
  ∀ (pk : Peak) (s : State),
    exec (.fsmStart pk) s = .next { s with halfBitCount := 2, bitAccumulator := 0 } ∧
    (s.halfBitCount = 0 → 9 ≤ pk.position.toNat → pk.position.toNat ≤ 11 →
      finalize pk s = .next { s with halfBitCount := 2, bitAccumulator := 0, lastPeakSign := pk.value })

/-- R124: any other Peak while idle changes nothing but the recorded value. -/
def Obligations.FsmNoiseKeepsIdle : Prop :=
  ∀ (pk : Peak) (s : State), exec (.fsmNoise pk) s = .next s ∧
    (s.halfBitCount = 0 → ¬ (9 ≤ pk.position.toNat ∧ pk.position.toNat ≤ 11) →
      finalize pk s = .next { s with lastPeakSign := pk.value })

/-- R125: during a frame a Peak of the sign before it resets the count, whatever its position. -/
def Obligations.FsmSignerrResetsTheCount : Prop :=
  ∀ (pk : Peak) (s : State), exec (.fsmSignerr pk) s = .next { s with halfBitCount := 0 } ∧
    (s.halfBitCount ≠ 0 → s.halfBitCount ≠ 14 → sign pk.value = sign s.lastPeakSign →
      finalize pk s = .next { s with halfBitCount := 0, lastPeakSign := pk.value })

/-- R126: a short gap at an even count adds 1 and shifts in a 1; 12 becomes 13 and is folded to 14. The first clause
is the model's choice where the row would not be selected: R126 runs it at even counts 2 to 12 only, and the model
gives it its pseudocode's effect at every count up to 13 (log entries 5 and 6; U4). -/
def Obligations.FsmHalfAddsOne : Prop :=
  ∀ (pk : Peak) (s : State),
    (s.halfBitCount.toNat + 1 ≤ 14 → exec (.fsmHalf pk) s = .next
      { s with halfBitCount := s.halfBitCount + 1,
               bitAccumulator := (s.bitAccumulator >>> 1) |||
                 (if (s.halfBitCount.toNat + 1) % 2 = 1 then 0b100000 else 0) }) ∧
    (s.halfBitCount.toNat % 2 = 0 → s.halfBitCount ≠ 0 → s.halfBitCount ≠ 14 →
      sign pk.value ≠ sign s.lastPeakSign → 4 ≤ pk.position.toNat → pk.position.toNat ≤ 6 →
      finalize pk s = .next
        { s with halfBitCount := if s.halfBitCount = 12 then 14 else s.halfBitCount + 1,
                 bitAccumulator := (s.bitAccumulator >>> 1) ||| 0b100000, lastPeakSign := pk.value })

/-- R127: a normal gap during a frame adds 2 and shifts in the parity; 11 becomes 13 and is folded to 14. The first
clause holds at count 0 too, where the row would not be selected: the model's choice (log entries 5 and 6). -/
def Obligations.FsmFullAddsTwo : Prop :=
  ∀ (pk : Peak) (s : State),
    (s.halfBitCount.toNat + 2 ≤ 14 → exec (.fsmFull pk) s = .next
      { s with halfBitCount := s.halfBitCount + 2,
               bitAccumulator := (s.bitAccumulator >>> 1) |||
                 (if s.halfBitCount.toNat % 2 = 1 then 0b100000 else 0) }) ∧
    (1 ≤ s.halfBitCount.toNat → s.halfBitCount.toNat ≤ 12 →
      sign pk.value ≠ sign s.lastPeakSign → 9 ≤ pk.position.toNat → pk.position.toNat ≤ 11 →
      finalize pk s = .next
        { s with halfBitCount := if s.halfBitCount = 11 then 14 else s.halfBitCount + 2,
                 bitAccumulator := (s.bitAccumulator >>> 1) |||
                   (if s.halfBitCount.toNat % 2 = 1 then 0b100000 else 0),
                 lastPeakSign := pk.value })

/-- R128: a long gap at an odd count adds 3 and shifts in a 0. The first clause holds at even counts too, where the row
would not be selected: the model's choice (log entries 5 and 6). -/
def Obligations.FsmLongAddsThree : Prop :=
  ∀ (pk : Peak) (s : State),
    (s.halfBitCount.toNat + 3 ≤ 14 → exec (.fsmLong pk) s = .next
      { s with halfBitCount := s.halfBitCount + 3,
               bitAccumulator := (s.bitAccumulator >>> 1) |||
                 (if (s.halfBitCount.toNat + 3) % 2 = 1 then 0b100000 else 0) }) ∧
    (s.halfBitCount.toNat % 2 = 1 → s.halfBitCount.toNat ≤ 11 →
      sign pk.value ≠ sign s.lastPeakSign → 14 ≤ pk.position.toNat → pk.position.toNat ≤ 16 →
      finalize pk s = .next
        { s with halfBitCount := s.halfBitCount + 3, bitAccumulator := s.bitAccumulator >>> 1,
                 lastPeakSign := pk.value })

/-- R129: during a frame an alternating Peak whose gap fits no row resets the count. -/
def Obligations.FsmBadtimeResetsTheCount : Prop :=
  ∀ (pk : Peak) (s : State), exec (.fsmBadtime pk) s = .next { s with halfBitCount := 0 } ∧
    (s.halfBitCount ≠ 0 → s.halfBitCount ≠ 14 → sign pk.value ≠ sign s.lastPeakSign →
      (gapClass pk.position = .other ∨
        (gapClass pk.position = .short ∧ s.halfBitCount.toNat % 2 = 1) ∨
        (gapClass pk.position = .long ∧ s.halfBitCount.toNat % 2 = 0)) →
      finalize pk s = .next { s with halfBitCount := 0, lastPeakSign := pk.value })

/-- R131, R132: the Peak's value is recorded and 13 becomes 14. -/
def Obligations.FsmPostRecordsAndFolds : Prop :=
  ∀ (v : Numfmt) (s : State), exec (.fsmPost v) s = .next
    { s with lastPeakSign := v, halfBitCount := if s.halfBitCount = 13 then 14 else s.halfBitCount }

/-- 93 U4, R136, the model's choice (log entry 5): an advance above 14 is refused. -/
def Obligations.AdvanceAboveTerminalIsRefused : Prop :=
  ∀ (pk : Peak) (s : State),
    (14 < s.halfBitCount.toNat + 1 → exec (.fsmHalf pk) s = .refused .countAboveTerminal) ∧
    (14 < s.halfBitCount.toNat + 2 → exec (.fsmFull pk) s = .refused .countAboveTerminal) ∧
    (14 < s.halfBitCount.toNat + 3 → exec (.fsmLong pk) s = .refused .countAboveTerminal)

/-- R137: six shifts leave the parities of their six counts, the first at bit 0, and nothing of the old value. -/
def Obligations.SixShiftsReplaceTheAddress : Prop :=
  ∀ (s : State) (c0 c1 c2 c3 c4 c5 : Count),
    let shift := fun (c : Count) (u : State) => shiftIn { u with halfBitCount := c }
    (shift c5 (shift c4 (shift c3 (shift c2 (shift c1 (shift c0 s)))))).bitAccumulator =
      c5.extractLsb' 0 1 ++ c4.extractLsb' 0 1 ++ c3.extractLsb' 0 1 ++ c2.extractLsb' 0 1 ++
        c1.extractLsb' 0 1 ++ c0.extractLsb' 0 1

/-- R138: the complete table of transitions, with the bit shifted in. -/
def Obligations.FinalizeFollowsTheTransitionTable : Prop :=
  ∀ (pk : Peak) (s : State), LegalCount s.halfBitCount →
    let row := transitionTable s.halfBitCount.toNat (decide (sign pk.value = sign s.lastPeakSign))
      (gapClass pk.position)
    finalize pk s = .next
      { s with halfBitCount := BitVec.ofNat 4 row.1,
               bitAccumulator :=
                 match row.2 with
                 | some true => (s.bitAccumulator >>> 1) ||| 0b100000
                 | some false => s.bitAccumulator >>> 1
                 | none =>
                   if s.halfBitCount = 0 ∧ gapClass pk.position = .normal then 0 else s.bitAccumulator,
               lastPeakSign := pk.value }

/-! ## Invariants and rules of the whole machine -/

/-- R38: the machine after reset, every register. The empty `input` is the model's (log entry 3). -/
def Obligations.ResetStateIsAllZero : Prop :=
  State.reset =
    { prevValid := false, prevSample := 0, dbuf0 := 0, dbuf1 := 0, dbuf2 := 0, maxPeakMagnitude := 0,
      pkValid := false, pkValue := 0, pkPos := 0, tickCnt := 0, halfBitCount := 0, bitAccumulator := 0,
      lastPeakSign := 0, input := [] } ∧
  outputs State.reset = ⟨0, 0, 0, 0⟩

/-- The invariants below hold after reset. -/
def Obligations.ResetMeetsTheInvariants : Prop :=
  Invariant State.reset ∧ SignRecorded State.reset ∧ GapAtLeastTwo State.reset

/-- R39, R139, R113: every step keeps the count off 1, 13 and 15, the maximum non-negative and a pending peak's value
other than 0, while the caller presents commands. -/
def Obligations.StepKeepsTheInvariant : Prop :=
  ∀ s s' : State, Invariant s → step s = .next s' → Invariant s'

/-- R40: the sign of the last Peak is recorded whenever it can be examined. -/
def Obligations.StepKeepsTheSignRecorded : Prop :=
  ∀ s s' : State, Invariant s → SignRecorded s → step s = .next s' → SignRecorded s'

/-- R150: from a state that meets the invariant every step completes: no command faults or is refused. -/
def Obligations.StepCompletesUnderTheInvariant : Prop :=
  ∀ s : State, Invariant s → ∃ s', step s = .next s'

/-- R150: every command completes, in every state whose count a run can leave (R139; 93 U4). -/
def Obligations.EveryCommandCompletes : Prop :=
  ∀ (i : Instr) (s : State), i.isCommand = true → LegalCount s.halfBitCount → ∃ t, exec i s = .next t

/-- R140: every accepted transition advances the cell by exactly one; the frame starts in cell 1 and the terminal
state is cell 7. -/
def Obligations.AcceptedTransitionAdvancesOneCell : Prop :=
  (∀ (pk : Peak) (s t : State), LegalCount s.halfBitCount → s.halfBitCount ≠ 0 → s.halfBitCount ≠ 14 →
    finalize pk s = .next t → t.halfBitCount ≠ 0 →
    cell t.halfBitCount.toNat = cell s.halfBitCount.toNat + 1) ∧
  cell 2 = 1 ∧ cell 13 = 7 ∧ cell 14 = 7

/-- R141: a command leaves the count, raises it, or resets it to 0. -/
def Obligations.CountOnlyIncreasesOrResets : Prop :=
  ∀ (i : Instr) (s t : State), i.isCommand = true → LegalCount s.halfBitCount → exec i s = .next t →
    t.halfBitCount = s.halfBitCount ∨ t.halfBitCount = 0 ∨ s.halfBitCount.toNat < t.halfBitCount.toNat

/-- R187, R122: only `CLEAR` and `RESET` leave the terminal state; every other command keeps it and the address. -/
def Obligations.OnlyClearAndResetLeaveTheTerminalState : Prop :=
  ∀ (i : Instr) (s : State), i.isCommand = true → s.halfBitCount = 14 → i ≠ .clear → i ≠ .reset →
    ∃ t, exec i s = .next t ∧ t.halfBitCount = 14 ∧ t.bitAccumulator = s.bitAccumulator ∧
      validAddress t = validAddress s

/-- R79, R140: for every address, the Peaks of its frame (an alternating Peak for each gap, each position anywhere
in its window) take the state machine from idle to the terminal state with that address. -/
def Obligations.EveryFrameAssemblesItsAddress : Prop :=
  ∀ (a : Addr) (s : State) (p : Nat → Ticks) (v : Nat → Numfmt), s.halfBitCount = 0 →
    gapClass (p 0) = .normal →
    (∀ k < 6, gapClass (p (k + 1)) = classOfHalfBits (gapHalfBits a k)) →
    (∀ k < 6, sign (v (k + 1)) ≠ sign (v k)) →
    injectPeaks [⟨v 0, p 0⟩, ⟨v 1, p 1⟩, ⟨v 2, p 2⟩, ⟨v 3, p 3⟩, ⟨v 4, p 4⟩, ⟨v 5, p 5⟩, ⟨v 6, p 6⟩] s =
      .next { s with halfBitCount := 14, bitAccumulator := a, lastPeakSign := v 6 }

/-- R79, R85, V30, S7: `RESET; FRAME a, v` ends with the address `a` valid, for every address and every positive
impulse, and no address is valid one tick earlier. -/
def Obligations.FrameOfEveryAddressIsDecoded : Prop :=
  ∀ (a : Addr) (v : Numfmt) (s : State), 0 < v →
    (∃ t, run (.reset :: frame a v) s = .next t ∧ validAddress t = some a ∧ progressPercent t = 100) ∧
    (∃ t, run (.reset :: (frame a v).dropLast) s = .next t ∧ validAddress t = none)

/-! ## Commands and outputs -/

/-- R151: every register takes its reset value, the ports show 0, and `rst = 1` wins over any `cmd`. What the caller
presents next is no register and stays (log entry 3). -/
def Obligations.ResetCommandClearsEveryRegister : Prop :=
  (∀ s : State, ∃ t, exec .reset s = .next t ∧
    t = { prevValid := false, prevSample := 0, dbuf0 := 0, dbuf1 := 0, dbuf2 := 0, maxPeakMagnitude := 0,
          pkValid := false, pkValue := 0, pkPos := 0, tickCnt := 0, halfBitCount := 0, bitAccumulator := 0,
          lastPeakSign := 0, input := s.input } ∧
    outputs t = ⟨0, 0, 0, 0⟩) ∧
  ∀ (w : BitVec 3) (x : Numfmt), w.getLsbD 2 = true → decode (.cmd w x) = .ok .reset

/-- R152. -/
def Obligations.NopChangesNothing : Prop :=
  ∀ s : State, exec .nop s = .next s

/-- R153: the count becomes 0, nothing else is written, and the ports follow. -/
def Obligations.ClearReturnsToIdle : Prop :=
  ∀ s : State, ∃ t, exec .clear s = .next t ∧ t = { s with halfBitCount := 0 } ∧
    done t = 0 ∧ progressPercent t = 0

/-- R134: progress is the truncated quotient, 100 in the terminal state only and 0 in the idle state only. -/
def Obligations.ProgressFollowsTheCount : Prop :=
  ∀ s : State,
    (progressPercent s).toNat = s.halfBitCount.toNat * 100 / 14 ∧
    (progressPercent s = 100 ↔ s.halfBitCount = 14) ∧ (progressPercent s = 0 ↔ s.halfBitCount = 0)

/-- R135, and R133 where the address means something: `done` is the terminal state, `hbc_out` the count, and while
`done = 1` the address port shows the accumulator. `done` is a level: only `CLEAR` and `RESET` lower it. -/
def Obligations.DoneIsTheTerminalState : Prop :=
  (∀ s : State, (done s = 1 ↔ s.halfBitCount = 14) ∧ hbcOut s = s.halfBitCount ∧
    (done s = 1 → decodedAddress s = s.bitAccumulator)) ∧
  ∀ (i : Instr) (s : State), i.isCommand = true → i ≠ .clear → i ≠ .reset → done s = 1 →
    ∃ t, exec i s = .next t ∧ done t = 1
end

