-- ==== Sys2Proof/Laws/Config.lean ====
section
/-! SUPPORT. The value of each constant that an operation reads. -/

namespace Sys2Proof

@[simp] theorem config_addrW : config.addrW = 6 := rfl
@[simp] theorem config_cntW : config.cntW = 8 := rfl
@[simp] theorem config_hbcMax : config.hbcMax = 14 := rfl
@[simp] theorem config_hbcFold : config.hbcFold = 13 := rfl
@[simp] theorem config_hbcStart : config.hbcStart = 2 := rfl
@[simp] theorem config_filterDiv : config.filterDiv = 4 := rfl
@[simp] theorem config_threshRatio : config.threshRatio = 1 / 2 := rfl
@[simp] theorem config_decay : config.decay = 99 / 100 := rfl
@[simp] theorem config_shortLo : config.shortLo = 4 := rfl
@[simp] theorem config_shortHi : config.shortHi = 6 := rfl
@[simp] theorem config_normLo : config.normLo = 9 := rfl
@[simp] theorem config_normHi : config.normHi = 11 := rfl
@[simp] theorem config_longLo : config.longLo = 14 := rfl
@[simp] theorem config_longHi : config.longHi = 16 := rfl
@[simp] theorem config_progressScale : config.progressScale = 100 := rfl
@[simp] theorem config_terminalPolicy : config.terminalPolicy = .hold := rfl

end Sys2Proof
end

