-- ==== Sys2Proof/Laws/Operands.lean ====
section
/-! SUPPORT. The value functions in the library's words, the counter, the gap classes and the conditions. -/

namespace Sys2Proof.Machine

@[simp] theorem exactFormat_carries (x : Numfmt) : exactFormat.carries x = true := rfl
@[simp] theorem exactFormat_literal (x : Rat) : exactFormat.literal x = x := rfl
@[simp] theorem exactFormat_add (x y : Numfmt) : exactFormat.add x y = x + y := rfl
@[simp] theorem exactFormat_sub (x y : Numfmt) : exactFormat.sub x y = x - y := rfl
@[simp] theorem exactFormat_mul (x y : Numfmt) : exactFormat.mul x y = x * y := rfl
@[simp] theorem exactFormat_div (x y : Numfmt) : exactFormat.div x y = x / y := rfl

/-- The threshold in the reference format. -/
theorem threshold_eq (s : State) : threshold s = config.threshRatio * s.maxPeakMagnitude := rfl

/-- `A` in the reference format. -/
theorem condA_eq (d : Numfmt) (s : State) : condA d s = decide (threshold s < magnitude d) := rfl

theorem magnitude_eq_abs (x : Numfmt) : magnitude x = |x| := by
  unfold magnitude
  split
  · rw [abs_of_neg ‹_›]
  · rw [abs_of_nonneg (not_lt.mp ‹_›)]

theorem larger_eq_max (a b : Numfmt) : larger a b = max a b := by
  unfold larger
  split
  · rw [max_eq_right ‹_›]
  · rw [max_eq_left (le_of_not_ge ‹_›)]

theorem sign_eq_pos {x : Numfmt} : sign x = .pos ↔ 0 < x := by
  unfold sign; split_ifs <;> simp_all

theorem sign_eq_neg {x : Numfmt} : sign x = .neg ↔ x < 0 := by
  unfold sign; split_ifs <;> simp_all
  linarith

theorem sign_eq_zero {x : Numfmt} : sign x = .zero ↔ x = 0 := by
  unfold sign
  split_ifs with h₁ h₂
  · simp [h₁.ne']
  · simp [h₂.ne]
  · simp [le_antisymm (not_lt.mp h₁) (not_lt.mp h₂)]

/-- Two signs agree after both values are multiplied by one factor other than 0 (R114). -/
theorem sign_mul_eq_iff {c : Numfmt} (hc : c ≠ 0) (x y : Numfmt) :
    sign (c * x) = sign (c * y) ↔ sign x = sign y := by
  rcases lt_or_gt_of_ne hc with h | h
  · simp only [sign, mul_pos_iff, mul_neg_iff, h, not_lt.mpr h.le]
    split_ifs <;> simp_all <;> linarith
  · simp only [sign, mul_pos_iff, mul_neg_iff, h, not_lt.mpr h.le]
    split_ifs <;> simp_all

/-- `sat_inc` in natural numbers (R10). -/
theorem satInc_eq (c : Ticks) : satInc c = BitVec.ofNat 8 (min 255 (c.toNat + 1)) := by
  revert c; decide +kernel

theorem satInc_toNat (c : Ticks) : (satInc c).toNat = min 255 (c.toNat + 1) := by
  revert c; decide +kernel

theorem gapClass_eq (p : Ticks) : gapClass p =
    if 4 ≤ p.toNat ∧ p.toNat ≤ 6 then .short
    else if 9 ≤ p.toNat ∧ p.toNat ≤ 11 then .normal
    else if 14 ≤ p.toNat ∧ p.toNat ≤ 16 then .long
    else .other := by
  simp only [gapClass, inWindow, Bool.and_eq_true, decide_eq_true_eq]; rfl

theorem gapOfCode_gapCode (g : GapClass) : gapOfCode (gapCode g) = g := by
  cases g <;> rfl

theorem gapClass_gapLowest (g : GapClass) : gapClass (gapLowest g) = g := by
  cases g <;> rfl

theorem oddCount_eq (c : Count) : oddCount c = decide (c.toNat % 2 = 1) := by
  revert c; decide

theorem condA_iff (d : Numfmt) (s : State) : condA d s = true ↔ s.maxPeakMagnitude / 2 < |d| := by
  simp [condA_eq, threshold_eq, magnitude_eq_abs, div_eq_inv_mul]

theorem condM_iff (d : Numfmt) (s : State) :
    condM d s = true ↔ s.pkValid = true ∧ sign d = sign s.pkValue ∧ |s.pkValue| < |d| := by
  simp [condM, magnitude_eq_abs, and_assoc]

theorem condT_iff (s : State) : condT s = true ↔ s.halfBitCount = 14 :=
  decide_eq_true_iff

theorem condZ_iff (s : State) : condZ s = true ↔ s.halfBitCount = 0 := by simp [condZ]

theorem condT_eq_false (s : State) : condT s = false ↔ s.halfBitCount ≠ 14 :=
  decide_eq_false_iff_not

theorem condZ_eq_false (s : State) : condZ s = false ↔ s.halfBitCount ≠ 0 :=
  decide_eq_false_iff_not

theorem condS_iff (pk : Peak) (s : State) :
    condS pk s = true ↔ sign pk.value = sign s.lastPeakSign := by simp [condS]

theorem condP_iff (s : State) : condP s = true ↔ s.halfBitCount.toNat % 2 = 1 := by
  simp [condP, oddCount_eq]

end Sys2Proof.Machine
end

