-- ==== Sys2Proof/Laws/State.lean ====
section
/-! SUPPORT. One lemma for each register and each named update of Machine/Ops.lean, so that no proof unfolds a
record update. -/

namespace Sys2Proof.Machine

@[simp] theorem invalidateFraming_prevValid (s : State) : (invalidateFraming s).prevValid = s.prevValid := rfl
@[simp] theorem invalidateFraming_prevSample (s : State) : (invalidateFraming s).prevSample = s.prevSample := rfl
@[simp] theorem invalidateFraming_dbuf0 (s : State) : (invalidateFraming s).dbuf0 = s.dbuf0 := rfl
@[simp] theorem invalidateFraming_dbuf1 (s : State) : (invalidateFraming s).dbuf1 = s.dbuf1 := rfl
@[simp] theorem invalidateFraming_dbuf2 (s : State) : (invalidateFraming s).dbuf2 = s.dbuf2 := rfl
@[simp] theorem invalidateFraming_maxPeakMagnitude (s : State) : (invalidateFraming s).maxPeakMagnitude = s.maxPeakMagnitude := rfl
@[simp] theorem invalidateFraming_pkValid (s : State) : (invalidateFraming s).pkValid = s.pkValid := rfl
@[simp] theorem invalidateFraming_pkValue (s : State) : (invalidateFraming s).pkValue = s.pkValue := rfl
@[simp] theorem invalidateFraming_pkPos (s : State) : (invalidateFraming s).pkPos = s.pkPos := rfl
@[simp] theorem invalidateFraming_tickCnt (s : State) : (invalidateFraming s).tickCnt = s.tickCnt := rfl
@[simp] theorem invalidateFraming_halfBitCount (s : State) : (invalidateFraming s).halfBitCount = 0 := rfl
@[simp] theorem invalidateFraming_bitAccumulator (s : State) : (invalidateFraming s).bitAccumulator = s.bitAccumulator := rfl
@[simp] theorem invalidateFraming_lastPeakSign (s : State) : (invalidateFraming s).lastPeakSign = s.lastPeakSign := rfl
@[simp] theorem invalidateFraming_input (s : State) : (invalidateFraming s).input = s.input := rfl

@[simp] theorem startFrame_prevValid (s : State) : (startFrame s).prevValid = s.prevValid := rfl
@[simp] theorem startFrame_prevSample (s : State) : (startFrame s).prevSample = s.prevSample := rfl
@[simp] theorem startFrame_dbuf0 (s : State) : (startFrame s).dbuf0 = s.dbuf0 := rfl
@[simp] theorem startFrame_dbuf1 (s : State) : (startFrame s).dbuf1 = s.dbuf1 := rfl
@[simp] theorem startFrame_dbuf2 (s : State) : (startFrame s).dbuf2 = s.dbuf2 := rfl
@[simp] theorem startFrame_maxPeakMagnitude (s : State) : (startFrame s).maxPeakMagnitude = s.maxPeakMagnitude := rfl
@[simp] theorem startFrame_pkValid (s : State) : (startFrame s).pkValid = s.pkValid := rfl
@[simp] theorem startFrame_pkValue (s : State) : (startFrame s).pkValue = s.pkValue := rfl
@[simp] theorem startFrame_pkPos (s : State) : (startFrame s).pkPos = s.pkPos := rfl
@[simp] theorem startFrame_tickCnt (s : State) : (startFrame s).tickCnt = s.tickCnt := rfl
@[simp] theorem startFrame_halfBitCount (s : State) : (startFrame s).halfBitCount = config.hbcStart := rfl
@[simp] theorem startFrame_bitAccumulator (s : State) : (startFrame s).bitAccumulator = 0 := rfl
@[simp] theorem startFrame_lastPeakSign (s : State) : (startFrame s).lastPeakSign = s.lastPeakSign := rfl
@[simp] theorem startFrame_input (s : State) : (startFrame s).input = s.input := rfl

@[simp] theorem shiftIn_prevValid (s : State) : (shiftIn s).prevValid = s.prevValid := rfl
@[simp] theorem shiftIn_prevSample (s : State) : (shiftIn s).prevSample = s.prevSample := rfl
@[simp] theorem shiftIn_dbuf0 (s : State) : (shiftIn s).dbuf0 = s.dbuf0 := rfl
@[simp] theorem shiftIn_dbuf1 (s : State) : (shiftIn s).dbuf1 = s.dbuf1 := rfl
@[simp] theorem shiftIn_dbuf2 (s : State) : (shiftIn s).dbuf2 = s.dbuf2 := rfl
@[simp] theorem shiftIn_maxPeakMagnitude (s : State) : (shiftIn s).maxPeakMagnitude = s.maxPeakMagnitude := rfl
@[simp] theorem shiftIn_pkValid (s : State) : (shiftIn s).pkValid = s.pkValid := rfl
@[simp] theorem shiftIn_pkValue (s : State) : (shiftIn s).pkValue = s.pkValue := rfl
@[simp] theorem shiftIn_pkPos (s : State) : (shiftIn s).pkPos = s.pkPos := rfl
@[simp] theorem shiftIn_tickCnt (s : State) : (shiftIn s).tickCnt = s.tickCnt := rfl
@[simp] theorem shiftIn_halfBitCount (s : State) : (shiftIn s).halfBitCount = s.halfBitCount := rfl
@[simp] theorem shiftIn_bitAccumulator (s : State) : (shiftIn s).bitAccumulator = BitVec.ofBool (oddCount s.halfBitCount) ++ s.bitAccumulator.extractLsb' 1 5 := rfl
@[simp] theorem shiftIn_lastPeakSign (s : State) : (shiftIn s).lastPeakSign = s.lastPeakSign := rfl
@[simp] theorem shiftIn_input (s : State) : (shiftIn s).input = s.input := rfl

@[simp] theorem recordPeak_prevValid (v : Numfmt) (s : State) : (recordPeak v s).prevValid = s.prevValid := rfl
@[simp] theorem recordPeak_prevSample (v : Numfmt) (s : State) : (recordPeak v s).prevSample = s.prevSample := rfl
@[simp] theorem recordPeak_dbuf0 (v : Numfmt) (s : State) : (recordPeak v s).dbuf0 = s.dbuf0 := rfl
@[simp] theorem recordPeak_dbuf1 (v : Numfmt) (s : State) : (recordPeak v s).dbuf1 = s.dbuf1 := rfl
@[simp] theorem recordPeak_dbuf2 (v : Numfmt) (s : State) : (recordPeak v s).dbuf2 = s.dbuf2 := rfl
@[simp] theorem recordPeak_maxPeakMagnitude (v : Numfmt) (s : State) : (recordPeak v s).maxPeakMagnitude = s.maxPeakMagnitude := rfl
@[simp] theorem recordPeak_pkValid (v : Numfmt) (s : State) : (recordPeak v s).pkValid = s.pkValid := rfl
@[simp] theorem recordPeak_pkValue (v : Numfmt) (s : State) : (recordPeak v s).pkValue = s.pkValue := rfl
@[simp] theorem recordPeak_pkPos (v : Numfmt) (s : State) : (recordPeak v s).pkPos = s.pkPos := rfl
@[simp] theorem recordPeak_tickCnt (v : Numfmt) (s : State) : (recordPeak v s).tickCnt = s.tickCnt := rfl
@[simp] theorem recordPeak_halfBitCount (v : Numfmt) (s : State) : (recordPeak v s).halfBitCount = s.halfBitCount := rfl
@[simp] theorem recordPeak_bitAccumulator (v : Numfmt) (s : State) : (recordPeak v s).bitAccumulator = s.bitAccumulator := rfl
@[simp] theorem recordPeak_lastPeakSign (v : Numfmt) (s : State) : (recordPeak v s).lastPeakSign = v := rfl
@[simp] theorem recordPeak_input (v : Numfmt) (s : State) : (recordPeak v s).input = s.input := rfl

@[simp] theorem setPeak_prevValid (v : Numfmt) (p : Ticks) (s : State) : (setPeak v p s).prevValid = s.prevValid := rfl
@[simp] theorem setPeak_prevSample (v : Numfmt) (p : Ticks) (s : State) : (setPeak v p s).prevSample = s.prevSample := rfl
@[simp] theorem setPeak_dbuf0 (v : Numfmt) (p : Ticks) (s : State) : (setPeak v p s).dbuf0 = s.dbuf0 := rfl
@[simp] theorem setPeak_dbuf1 (v : Numfmt) (p : Ticks) (s : State) : (setPeak v p s).dbuf1 = s.dbuf1 := rfl
@[simp] theorem setPeak_dbuf2 (v : Numfmt) (p : Ticks) (s : State) : (setPeak v p s).dbuf2 = s.dbuf2 := rfl
@[simp] theorem setPeak_maxPeakMagnitude (v : Numfmt) (p : Ticks) (s : State) : (setPeak v p s).maxPeakMagnitude = s.maxPeakMagnitude := rfl
@[simp] theorem setPeak_pkValid (v : Numfmt) (p : Ticks) (s : State) : (setPeak v p s).pkValid = s.pkValid := rfl
@[simp] theorem setPeak_pkValue (v : Numfmt) (p : Ticks) (s : State) : (setPeak v p s).pkValue = v := rfl
@[simp] theorem setPeak_pkPos (v : Numfmt) (p : Ticks) (s : State) : (setPeak v p s).pkPos = p := rfl
@[simp] theorem setPeak_tickCnt (v : Numfmt) (p : Ticks) (s : State) : (setPeak v p s).tickCnt = 0 := rfl
@[simp] theorem setPeak_halfBitCount (v : Numfmt) (p : Ticks) (s : State) : (setPeak v p s).halfBitCount = s.halfBitCount := rfl
@[simp] theorem setPeak_bitAccumulator (v : Numfmt) (p : Ticks) (s : State) : (setPeak v p s).bitAccumulator = s.bitAccumulator := rfl
@[simp] theorem setPeak_lastPeakSign (v : Numfmt) (p : Ticks) (s : State) : (setPeak v p s).lastPeakSign = s.lastPeakSign := rfl
@[simp] theorem setPeak_input (v : Numfmt) (p : Ticks) (s : State) : (setPeak v p s).input = s.input := rfl

@[simp] theorem clearPending_prevValid (s : State) : (clearPending s).prevValid = s.prevValid := rfl
@[simp] theorem clearPending_prevSample (s : State) : (clearPending s).prevSample = s.prevSample := rfl
@[simp] theorem clearPending_dbuf0 (s : State) : (clearPending s).dbuf0 = s.dbuf0 := rfl
@[simp] theorem clearPending_dbuf1 (s : State) : (clearPending s).dbuf1 = s.dbuf1 := rfl
@[simp] theorem clearPending_dbuf2 (s : State) : (clearPending s).dbuf2 = s.dbuf2 := rfl
@[simp] theorem clearPending_maxPeakMagnitude (s : State) : (clearPending s).maxPeakMagnitude = s.maxPeakMagnitude := rfl
@[simp] theorem clearPending_pkValid (s : State) : (clearPending s).pkValid = false := rfl
@[simp] theorem clearPending_pkValue (s : State) : (clearPending s).pkValue = s.pkValue := rfl
@[simp] theorem clearPending_pkPos (s : State) : (clearPending s).pkPos = s.pkPos := rfl
@[simp] theorem clearPending_tickCnt (s : State) : (clearPending s).tickCnt = s.tickCnt := rfl
@[simp] theorem clearPending_halfBitCount (s : State) : (clearPending s).halfBitCount = s.halfBitCount := rfl
@[simp] theorem clearPending_bitAccumulator (s : State) : (clearPending s).bitAccumulator = s.bitAccumulator := rfl
@[simp] theorem clearPending_lastPeakSign (s : State) : (clearPending s).lastPeakSign = s.lastPeakSign := rfl
@[simp] theorem clearPending_input (s : State) : (clearPending s).input = s.input := rfl

@[simp] theorem foldCount_prevValid (s : State) : (foldCount s).prevValid = s.prevValid := by
  unfold foldCount; split <;> rfl
@[simp] theorem foldCount_prevSample (s : State) : (foldCount s).prevSample = s.prevSample := by
  unfold foldCount; split <;> rfl
@[simp] theorem foldCount_dbuf0 (s : State) : (foldCount s).dbuf0 = s.dbuf0 := by
  unfold foldCount; split <;> rfl
@[simp] theorem foldCount_dbuf1 (s : State) : (foldCount s).dbuf1 = s.dbuf1 := by
  unfold foldCount; split <;> rfl
@[simp] theorem foldCount_dbuf2 (s : State) : (foldCount s).dbuf2 = s.dbuf2 := by
  unfold foldCount; split <;> rfl
@[simp] theorem foldCount_maxPeakMagnitude (s : State) : (foldCount s).maxPeakMagnitude = s.maxPeakMagnitude := by
  unfold foldCount; split <;> rfl
@[simp] theorem foldCount_pkValid (s : State) : (foldCount s).pkValid = s.pkValid := by
  unfold foldCount; split <;> rfl
@[simp] theorem foldCount_pkValue (s : State) : (foldCount s).pkValue = s.pkValue := by
  unfold foldCount; split <;> rfl
@[simp] theorem foldCount_pkPos (s : State) : (foldCount s).pkPos = s.pkPos := by
  unfold foldCount; split <;> rfl
@[simp] theorem foldCount_tickCnt (s : State) : (foldCount s).tickCnt = s.tickCnt := by
  unfold foldCount; split <;> rfl
@[simp] theorem foldCount_halfBitCount (s : State) :
    (foldCount s).halfBitCount = if s.halfBitCount = config.hbcFold then config.hbcMax else s.halfBitCount := by
  unfold foldCount; split <;> rfl
@[simp] theorem foldCount_bitAccumulator (s : State) : (foldCount s).bitAccumulator = s.bitAccumulator := by
  unfold foldCount; split <;> rfl
@[simp] theorem foldCount_lastPeakSign (s : State) : (foldCount s).lastPeakSign = s.lastPeakSign := by
  unfold foldCount; split <;> rfl
@[simp] theorem foldCount_input (s : State) : (foldCount s).input = s.input := by
  unfold foldCount; split <;> rfl

@[simp] theorem pendingPeak_value (s : State) : (pendingPeak s).value = s.pkValue := rfl
@[simp] theorem pendingPeak_position (s : State) : (pendingPeak s).position = s.pkPos := rfl

end Sys2Proof.Machine
end

