-- ==== Sys2Proof/Laws/Ops.lean ====
section
/-! SUPPORT. What the shared operations can do: sequencing, the shift register, the advance of the count. -/

namespace Sys2Proof.Machine

@[simp] theorem andThen_next (s : State) (f : State → Result) : andThen (.next s) f = f s := rfl

@[simp] theorem andThen_refused (e : Refusal) (f : State → Result) :
    andThen (.refused e) f = .refused e := rfl

/-- A sequence answers a next state when both parts do. -/
theorem andThen_eq_next {r : Result} {f : State → Result} {t : State} :
    andThen r f = .next t ↔ ∃ s, r = .next s ∧ f s = .next t := by
  cases r <;> simp [andThen]

/-- No operation faults (R160). -/
theorem result_cases (r : Result) : (∃ s, r = .next s) ∨ ∃ e, r = .refused e := by
  cases r with
  | next s => exact .inl ⟨s, rfl⟩
  | fault e => cases e
  | refused e => exact .inr ⟨e, rfl⟩

/-- The source's spelling of `shift_in` (R130): `(acc >> 1) | (b << 5)`. -/
theorem shiftIn_eq (s : State) : shiftIn s =
    { s with bitAccumulator := (s.bitAccumulator >>> 1) |||
        (if s.halfBitCount.toNat % 2 = 1 then 0b100000 else 0) } := by
  have h : ∀ (c : Count) (a : Addr), BitVec.ofBool (oddCount c) ++ a.extractLsb' 1 5 =
      (a >>> 1) ||| (if c.toNat % 2 = 1 then 0b100000 else 0) := by decide +kernel
  simp only [shiftIn, h]

/-- An advance that stays at 14 or below completes. -/
theorem advance_next {n : Nat} {s : State} (h : s.halfBitCount.toNat + n ≤ 14) :
    advance n s = .next (shiftIn { s with halfBitCount := s.halfBitCount + BitVec.ofNat 4 n }) := by
  simp [advance, h]

/-- An advance above 14 is refused. -/
theorem advance_refused {n : Nat} {s : State} (h : 14 < s.halfBitCount.toNat + n) :
    advance n s = .refused .countAboveTerminal := by
  simp [advance, not_le.mpr h]

end Sys2Proof.Machine
end

