-- ==== Sys2Proof/Laws/Framing.lean ====
section
/-! SUPPORT. What a finalized Peak can do, said once: which row it selects, and what it leaves alone. -/

namespace Sys2Proof.Machine

@[simp] theorem runTerminal_eq (pk : Peak) (s : State) : runTerminal pk s = .next s := by
  simp [runTerminal, execFsmHold]

/-- Everything a row can answer. -/
theorem runRow_cases (pk : Peak) (s : State) :
    runRow pk s = .next s ∧ (s.halfBitCount = 14 ∨ s.halfBitCount = 0 ∧ gapClass pk.position ≠ .normal) ∨
    runRow pk s = .next (startFrame s) ∧ s.halfBitCount = 0 ∧ gapClass pk.position = .normal ∨
    s.halfBitCount ≠ 14 ∧ s.halfBitCount ≠ 0 ∧
      (runRow pk s = .next (invalidateFraming s) ∨
       sign pk.value ≠ sign s.lastPeakSign ∧
        ((runRow pk s = advance 1 s ∧ gapClass pk.position = .short ∧ s.halfBitCount.toNat % 2 = 0) ∨
         (runRow pk s = advance 2 s ∧ gapClass pk.position = .normal) ∨
         (runRow pk s = advance 3 s ∧ gapClass pk.position = .long ∧ s.halfBitCount.toNat % 2 = 1))) := by
  unfold runRow
  by_cases hT : s.halfBitCount = 14
  · simp [condT_iff, hT]
  have hT' : condT s = false := (condT_eq_false s).mpr hT
  by_cases hZ : s.halfBitCount = 0
  · by_cases hG : gapClass pk.position = .normal <;>
      simp [hT', condZ_iff, hZ, hG, execFsmStart, execFsmNoise]
  have hZ' : condZ s = false := (condZ_eq_false s).mpr hZ
  by_cases hS : sign pk.value = sign s.lastPeakSign
  · exact .inr (.inr ⟨hT, hZ, .inl (by simp [hT', hZ', condS_iff, hS, execFsmSignerr])⟩)
  by_cases hP : s.halfBitCount.toNat % 2 = 1 <;> cases hG : gapClass pk.position <;>
    simp_all [condS_iff, condP_iff, execFsmHalf, execFsmFull, execFsmLong, execFsmBadtime]

/-- What a Peak writes (R110): the framing registers only, and its value into `last_peak_sign` (R131). -/
theorem finalize_frame {pk : Peak} {s t : State} (h : finalize pk s = .next t) :
    t = { s with halfBitCount := t.halfBitCount, bitAccumulator := t.bitAccumulator,
                 lastPeakSign := pk.value } := by
  obtain ⟨u, hu, ht⟩ := andThen_eq_next.mp h
  have key : u = { s with halfBitCount := u.halfBitCount, bitAccumulator := u.bitAccumulator } := by
    have adv : ∀ n, advance n s = .next u →
        u = { s with halfBitCount := u.halfBitCount, bitAccumulator := u.bitAccumulator } := by
      intro n hn
      unfold advance at hn
      split at hn
      · cases hn; rfl
      · cases hn
    rcases runRow_cases pk s with ⟨hr, -⟩ | ⟨hr, -, -⟩ | ⟨-, -, hr | ⟨-, ⟨hr, -⟩ | ⟨hr, -⟩ | ⟨hr, -⟩⟩⟩ <;>
      rw [hr] at hu <;> first
        | (cases hu; rfl)
        | exact adv _ hu
  cases ht
  rw [key]
  unfold foldCount recordPeak
  split <;> rfl

end Sys2Proof.Machine
end

