-- ==== Sys2Proof/Laws/PeakDetector.lean ====
section
/-! SUPPORT. A tick of the detector as one equation, and the branch it runs. -/

namespace Sys2Proof.Machine

/-- The state that `PD_TRACK` leaves (R101). -/
theorem execPdTrack_eq (d : Numfmt) (s : State) :
    execPdTrack d s = .next { s with maxPeakMagnitude := max s.maxPeakMagnitude |d| } := by
  simp [execPdTrack, larger_eq_max, magnitude_eq_abs]

/-- `PD_DECAY` in the reference format (R109). -/
theorem execPdDecay_eq (s : State) :
    execPdDecay s = .next { s with maxPeakMagnitude := s.maxPeakMagnitude * (99 / 100) } := rfl

/-- The branch in the reference format, by its conditions (R69). -/
theorem runBranch_eq (d : Numfmt) (s : State) : runBranch d s =
    if condA d s then
      if condV s then
        if condM d s then execPdMerge d s else execPdFinalReject d s
      else execPdStart d s
    else if condV s then execPdFinalBelow s
    else execPdIdle s := rfl

/-- A tick in the reference format, in the order of R100. -/
theorem tick_def (d : Numfmt) (s : State) :
    tick d s = andThen (andThen (andThen (execPdTrack d s) (runBranch d)) execPdCount) execPdDecay := rfl

/-- What `PD_COUNT` and `PD_DECAY` do to the state the branch left (R108, R109). -/
def afterBranch (s : State) : State :=
  { s with tickCnt := satInc s.tickCnt, maxPeakMagnitude := s.maxPeakMagnitude * (99 / 100) }

/-- A tick (R100): the branch on the tracked state, then the counter and the decay. -/
theorem tick_eq (d : Numfmt) (s : State) :
    tick d s = andThen (runBranch d { s with maxPeakMagnitude := max s.maxPeakMagnitude |d| })
      fun u => .next (afterBranch u) := by
  rw [tick_def]
  rw [execPdTrack_eq, andThen_next]
  cases runBranch d { s with maxPeakMagnitude := max s.maxPeakMagnitude |d| } with
  | next u => simp [execPdCount, execPdDecay_eq, afterBranch]
  | fault e => cases e
  | refused e => rfl

/-- Everything a branch can answer (R69, R102). -/
theorem runBranch_cases (d : Numfmt) (s : State) :
    s.pkValid = false ∧ s.maxPeakMagnitude / 2 < |d| ∧
      runBranch d s = .next { setPeak d s.tickCnt s with pkValid := true } ∨
    s.pkValid = false ∧ |d| ≤ s.maxPeakMagnitude / 2 ∧ runBranch d s = .next s ∨
    s.pkValid = true ∧ s.maxPeakMagnitude / 2 < |d| ∧ sign d = sign s.pkValue ∧ |s.pkValue| < |d| ∧
      runBranch d s = .next (setPeak d (satInc s.pkPos) s) ∨
    s.pkValid = true ∧ ¬ (s.maxPeakMagnitude / 2 < |d| ∧ sign d = sign s.pkValue ∧ |s.pkValue| < |d|) ∧
      runBranch d s = andThen (finalize (pendingPeak s) s) fun t => .next (clearPending t) := by
  rw [runBranch_eq]
  simp only [condA_iff, condM_iff, condV]
  by_cases hA : s.maxPeakMagnitude / 2 < |d| <;> rcases Bool.eq_false_or_eq_true s.pkValid with hV | hV <;>
    by_cases hM : sign d = sign s.pkValue ∧ |s.pkValue| < |d| <;>
    simp_all [execPdStart, execPdMerge, execPdFinalReject, execPdFinalBelow, execPdIdle]

/-- A tick in full, by what the detector finds. -/
theorem tick_cases (d : Numfmt) (s : State) :
    let m := max s.maxPeakMagnitude |d|
    s.pkValid = false ∧ m / 2 < |d| ∧ tick d s = .next
      { s with maxPeakMagnitude := m * (99 / 100), pkValid := true, pkValue := d, pkPos := s.tickCnt,
               tickCnt := 1 } ∨
    s.pkValid = false ∧ |d| ≤ m / 2 ∧ tick d s = .next
      { s with maxPeakMagnitude := m * (99 / 100), tickCnt := satInc s.tickCnt } ∨
    s.pkValid = true ∧ m / 2 < |d| ∧ sign d = sign s.pkValue ∧ |s.pkValue| < |d| ∧ tick d s = .next
      { s with maxPeakMagnitude := m * (99 / 100), pkValue := d, pkPos := satInc s.pkPos, tickCnt := 1 } ∨
    s.pkValid = true ∧ ¬ (m / 2 < |d| ∧ sign d = sign s.pkValue ∧ |s.pkValue| < |d|) ∧
      tick d s = andThen (finalize (pendingPeak s) { s with maxPeakMagnitude := m })
        fun t => .next (afterBranch (clearPending t)) := by
  intro m
  rw [tick_eq]
  rcases runBranch_cases d { s with maxPeakMagnitude := m } with
    ⟨h₁, h₂, h⟩ | ⟨h₁, h₂, h⟩ | ⟨h₁, h₂, h₃, h₄, h⟩ | ⟨h₁, h₂, h⟩
  · exact .inl ⟨h₁, h₂, by rw [h]; rfl⟩
  · exact .inr (.inl ⟨h₁, h₂, by rw [h]; rfl⟩)
  · exact .inr (.inr (.inl ⟨h₁, h₂, h₃, h₄, by rw [h]; rfl⟩))
  · refine .inr (.inr (.inr ⟨h₁, h₂, ?_⟩))
    rw [h]
    change andThen (andThen (finalize (pendingPeak s) _) _) _ = andThen (finalize (pendingPeak s) _) _
    cases finalize (pendingPeak s) { s with maxPeakMagnitude := m } with
    | next u => rfl
    | fault e => cases e
    | refused e => rfl

end Sys2Proof.Machine
end

