-- ==== Sys2Proof/Machine/Formats.lean ====
section
/-! DEFINITION. The machine with its number format as an argument (00_scope.md R8, D1, U7): operations, step and run
under any `NUMFMT`. `exec` and `step`, whose types the host fixes, are these under the reference format
(Laws/Formats.lean). -/

namespace Sys2Proof.Machine

/-- Every operand of type `NUMFMT` is a value of the format (R83, U6). -/
def operandsIn (fmt : NumberFormat) : Instr → Bool
  | .reset => true
  | .nop => true
  | .tickS x => fmt.carries x
  | .tickD d => fmt.carries d
  | .clear => true
  | .preDelta x => fmt.carries x
  | .preFilter raw => fmt.carries raw
  | .preShift raw => fmt.carries raw
  | .pdTrack d => fmt.carries d
  | .pdStart d => fmt.carries d
  | .pdMerge d => fmt.carries d
  | .pdFinalReject d => fmt.carries d
  | .pdFinalBelow => true
  | .pdIdle => true
  | .pdCount => true
  | .pdDecay => true
  | .fsmHold pk => fmt.carries pk.value
  | .fsmStart pk => fmt.carries pk.value
  | .fsmNoise pk => fmt.carries pk.value
  | .fsmSignerr pk => fmt.carries pk.value
  | .fsmHalf pk => fmt.carries pk.value
  | .fsmFull pk => fmt.carries pk.value
  | .fsmLong pk => fmt.carries pk.value
  | .fsmBadtime pk => fmt.carries pk.value
  | .fsmPost v => fmt.carries v

/-- An operation's meaning under a number format. Five operations compute with it; the others only move and compare
values. -/
def meaningIn (fmt : NumberFormat) (i : Instr) (s : State) : Result :=
  match i with
  | .reset => execReset s
  | .nop => execNop s
  | .tickS x => tickSIn fmt x s
  | .tickD d => tickIn fmt d s
  | .clear => execClear s
  | .preDelta x => .next (runPreDeltaIn fmt x s).2
  | .preFilter raw => .next (runPreFilterIn fmt raw s).2
  | .preShift raw => execPreShift raw s
  | .pdTrack d => execPdTrack d s
  | .pdStart d => execPdStart d s
  | .pdMerge d => execPdMerge d s
  | .pdFinalReject d => execPdFinalReject d s
  | .pdFinalBelow => execPdFinalBelow s
  | .pdIdle => execPdIdle s
  | .pdCount => execPdCount s
  | .pdDecay => pdDecayIn fmt s
  | .fsmHold pk => execFsmHold pk s
  | .fsmStart pk => execFsmStart pk s
  | .fsmNoise pk => execFsmNoise pk s
  | .fsmSignerr pk => execFsmSignerr pk s
  | .fsmHalf pk => execFsmHalf pk s
  | .fsmFull pk => execFsmFull pk s
  | .fsmLong pk => execFsmLong pk s
  | .fsmBadtime pk => execFsmBadtime pk s
  | .fsmPost v => execFsmPost v s

/-- `exec` under a number format: an operand outside it is refused (U6). -/
def execIn (fmt : NumberFormat) (i : Instr) (s : State) : Result :=
  if operandsIn fmt i then meaningIn fmt i s else .refused .outsideFormat

/-- `step` under a number format (R156: the step function takes `NUMFMT`). -/
def stepIn (fmt : NumberFormat) (s : State) : Result :=
  match s.input with
  | [] => .next s
  | r :: rest =>
    match decode r with
    | .ok i => execIn fmt i { s with input := rest }
    | .error e => .refused (.badWord e)

/-- A run under a number format (R58, R156). -/
def runIn (fmt : NumberFormat) : List Instr → State → Result
  | [], s => .next s
  | i :: rest, s => andThen (execIn fmt i s) (runIn fmt rest)

end Sys2Proof.Machine
end

