-- ==== Sys2Proof/Laws/Formats.lean ====
section
/-! SUPPORT. Under the reference format the machine with a number format is the machine of `exec` and `step`; and
what a format can change at all. -/

namespace Sys2Proof.Machine

@[simp] theorem meaningIn_exactFormat (i : Instr) (s : State) : meaningIn exactFormat i s = exec i s := by
  cases i <;> rfl

@[simp] theorem execIn_exactFormat (i : Instr) (s : State) : execIn exactFormat i s = exec i s := by
  have h : operandsIn exactFormat i = true := by cases i <;> rfl
  simp [execIn, h]

@[simp] theorem stepIn_exactFormat (s : State) : stepIn exactFormat s = step s := by
  cases hin : s.input with
  | nil => simp [stepIn, step, hin]
  | cons r rest => cases hd : decode r <;> simp [stepIn, step, hin, hd]

@[simp] theorem runIn_exactFormat (is : List Instr) (s : State) : runIn exactFormat is s = run is s := by
  induction is generalizing s with
  | nil => rfl
  | cons i rest ih => simp [runIn, run, funext ih]

/-- An operand outside the format is refused, whatever the operation. -/
theorem execIn_refused {fmt : NumberFormat} {i : Instr} {s : State} (h : operandsIn fmt i = false) :
    execIn fmt i s = .refused .outsideFormat := by
  simp [execIn, h]

/-- Everything a branch can answer, in every format: only the threshold depends on it (R194). -/
theorem runBranchIn_cases (fmt : NumberFormat) (d : Numfmt) (s : State) :
    s.pkValid = false ∧ condAIn fmt d s = true ∧
      runBranchIn fmt d s = .next { setPeak d s.tickCnt s with pkValid := true } ∨
    s.pkValid = false ∧ condAIn fmt d s = false ∧ runBranchIn fmt d s = .next s ∨
    s.pkValid = true ∧ condAIn fmt d s = true ∧ condM d s = true ∧
      runBranchIn fmt d s = .next (setPeak d (satInc s.pkPos) s) ∨
    s.pkValid = true ∧ (condAIn fmt d s && condM d s) = false ∧
      runBranchIn fmt d s = andThen (finalize (pendingPeak s) s) fun t => .next (clearPending t) := by
  unfold runBranchIn
  cases hA : condAIn fmt d s <;> cases hV : s.pkValid <;> cases hM : condM d s <;>
    simp_all [condV, execPdStart, execPdMerge, execPdFinalReject, execPdFinalBelow, execPdIdle]

/-- A tick in every format (R100): the branch on the tracked state, then the counter and the format's decay. -/
theorem tickIn_eq (fmt : NumberFormat) (d : Numfmt) (s : State) :
    tickIn fmt d s = andThen (runBranchIn fmt d { s with maxPeakMagnitude := max s.maxPeakMagnitude |d| })
      fun u => .next { u with
        tickCnt := satInc u.tickCnt
        maxPeakMagnitude := fmt.mul u.maxPeakMagnitude (fmt.literal (99 / 100)) } := by
  unfold tickIn
  rw [execPdTrack_eq, andThen_next]
  cases runBranchIn fmt d { s with maxPeakMagnitude := max s.maxPeakMagnitude |d| } with
  | next u => simp [execPdCount, pdDecayIn]
  | fault e => cases e
  | refused e => rfl

end Sys2Proof.Machine
end

