-- ==== Sys2Proof/Laws/PerInstr.lean ====
section
/-! SUPPORT. The family RoundTrip: what the encoder writes for an operation, the decoder reads as it. One lemma
for each constructor of Instr. -/

namespace Sys2Proof.Laws

/-- Decoding inverts encoding at one operation. -/
def RoundTrip.Statement (i : Instr) : Prop :=
  ∀ r : Request, wellFormed i = true → encode i = some r → decode r = .ok i

/-- The bits `G` of a word made by `withGap` are the class of its Peak. -/
theorem fsmGap_withGap (base : BitVec 4) (pk : Peak) :
    fsmGap (withGap base pk) = Machine.gapCode (Machine.gapClass pk.position) := by
  simp only [withGap]
  generalize Machine.gapCode (Machine.gapClass pk.position) = g
  revert base g; decide

/-- A word made by `withGap` decodes by its row. -/
theorem decode_withGap (base : BitVec 4) (pk : Peak) :
    decode (.fsm (withGap base pk) pk) = selectRowOf fsmRows (withGap base pk) pk := by
  simp [decode, fsmGap_withGap]

theorem RoundTrip.reset : RoundTrip.Statement .reset := by
  intro r _ h; cases h; rfl

theorem RoundTrip.nop : RoundTrip.Statement .nop := by
  intro r _ h; cases h; rfl

theorem RoundTrip.tickS (x : Numfmt) : RoundTrip.Statement (.tickS x) := by
  intro r _ h; cases h; rfl

theorem RoundTrip.tickD (d : Numfmt) : RoundTrip.Statement (.tickD d) := by
  intro r _ h; cases h; rfl

theorem RoundTrip.clear : RoundTrip.Statement .clear := by
  intro r _ h; cases h; rfl

theorem RoundTrip.preDelta (x : Numfmt) : RoundTrip.Statement (.preDelta x) := by
  intro r _ h; cases h

theorem RoundTrip.preFilter (raw : Numfmt) : RoundTrip.Statement (.preFilter raw) := by
  intro r _ h; cases h

theorem RoundTrip.preShift (raw : Numfmt) : RoundTrip.Statement (.preShift raw) := by
  intro r _ h; cases h

theorem RoundTrip.pdTrack (d : Numfmt) : RoundTrip.Statement (.pdTrack d) := by
  intro r _ h; cases h

theorem RoundTrip.pdStart (d : Numfmt) : RoundTrip.Statement (.pdStart d) := by
  intro r w h; cases h; simp_all [wellFormed, decode, pdAbove, selectRowOf, pdRows, Pattern.matches]

theorem RoundTrip.pdMerge (d : Numfmt) : RoundTrip.Statement (.pdMerge d) := by
  intro r w h; cases h; simp_all [wellFormed, decode, pdAbove, selectRowOf, pdRows, Pattern.matches]

theorem RoundTrip.pdFinalReject (d : Numfmt) : RoundTrip.Statement (.pdFinalReject d) := by
  intro r w h; cases h; simp_all [wellFormed, decode, pdAbove, selectRowOf, pdRows, Pattern.matches]

theorem RoundTrip.pdFinalBelow : RoundTrip.Statement .pdFinalBelow := by
  intro r _ h; cases h; rfl

theorem RoundTrip.pdIdle : RoundTrip.Statement .pdIdle := by
  intro r _ h; cases h; rfl

theorem RoundTrip.pdCount : RoundTrip.Statement .pdCount := by
  intro r _ h; cases h

theorem RoundTrip.pdDecay : RoundTrip.Statement .pdDecay := by
  intro r _ h; cases h

theorem RoundTrip.fsmHold (pk : Peak) : RoundTrip.Statement (.fsmHold pk) := by
  intro r w h
  cases h; rw [decode_withGap, withGap]
  cases Machine.gapClass pk.position <;> rfl

theorem RoundTrip.fsmStart (pk : Peak) : RoundTrip.Statement (.fsmStart pk) := by
  intro r w h
  have hG : Machine.gapClass pk.position = _ := of_decide_eq_true w
  cases h; rw [decode_withGap, withGap, hG]; rfl

theorem RoundTrip.fsmNoise (pk : Peak) : RoundTrip.Statement (.fsmNoise pk) := by
  intro r w h
  have hN : Machine.gapClass pk.position ≠ .normal := of_decide_eq_true w
  cases h; rw [decode_withGap, withGap]
  cases hG : Machine.gapClass pk.position <;> first | rfl | exact absurd hG hN

theorem RoundTrip.fsmSignerr (pk : Peak) : RoundTrip.Statement (.fsmSignerr pk) := by
  intro r w h
  cases h; rw [decode_withGap, withGap]
  cases Machine.gapClass pk.position <;> rfl

theorem RoundTrip.fsmHalf (pk : Peak) : RoundTrip.Statement (.fsmHalf pk) := by
  intro r w h
  have hG : Machine.gapClass pk.position = _ := of_decide_eq_true w
  cases h; rw [decode_withGap, withGap, hG]; rfl

theorem RoundTrip.fsmFull (pk : Peak) : RoundTrip.Statement (.fsmFull pk) := by
  intro r w h
  have hG : Machine.gapClass pk.position = _ := of_decide_eq_true w
  cases h; rw [decode_withGap, withGap, hG]; rfl

theorem RoundTrip.fsmLong (pk : Peak) : RoundTrip.Statement (.fsmLong pk) := by
  intro r w h
  have hG : Machine.gapClass pk.position = _ := of_decide_eq_true w
  cases h; rw [decode_withGap, withGap, hG]; rfl

theorem RoundTrip.fsmBadtime (pk : Peak) : RoundTrip.Statement (.fsmBadtime pk) := by
  intro r w h
  cases hG : Machine.gapClass pk.position <;> simp_all [wellFormed, encode] <;>
    subst h <;> rw [decode_withGap] <;> simp [withGap, hG] <;> rfl

theorem RoundTrip.fsmPost (v : Numfmt) : RoundTrip.Statement (.fsmPost v) := by
  intro r _ h; cases h

end Sys2Proof.Laws
end

