-- ==== Sys2Proof/Laws/Preprocessor.lean ====
section
/-! SUPPORT. The signal preprocessor in the reference format. -/

namespace Sys2Proof.Machine

theorem runPreDelta_eq (x : Numfmt) (s : State) : runPreDelta x s =
    (if s.prevValid then x - s.prevSample else 0, { s with prevSample := x, prevValid := true }) := rfl

theorem runPreFilter_eq (raw : Numfmt) (s : State) :
    runPreFilter raw s = ((raw + s.dbuf0 + s.dbuf1 + s.dbuf2) / 4, s) := rfl

/-- `TICK_S` (R154): one tick on the filtered delta, with the sample taken and the buffer shifted. -/
theorem execTickS_eq (x : Numfmt) (s : State) : execTickS x s =
    let raw : Numfmt := if s.prevValid then x - s.prevSample else 0
    tick ((raw + s.dbuf0 + s.dbuf1 + s.dbuf2) / 4)
      { s with prevSample := x, prevValid := true, dbuf0 := s.dbuf1, dbuf1 := s.dbuf2, dbuf2 := raw } := rfl

end Sys2Proof.Machine
end

