-- ==== Sys2Proof/Tests/Slice0.lean ====
section
/-! SUPPORT. Tests of single steps, their expected results from the spec's worked examples and vectors (named in each
comment), the smoke tests of WellFormed, and a witness for the hypotheses of every statement of
Certificates/Slice0/Obligations.lean. -/

namespace Sys2Proof.Tests

open Sys2Proof Sys2Proof.Machine

/- One theorem after the other: elaborated side by side, so many kernel evaluations ask for more threads than the
checker's memory limit gives stacks to. -/
set_option Elab.async false

/-- A check of the state that an operation answers; false where it answers none. -/
def leaves (r : Result) (check : State → Bool) : Bool :=
  match r with
  | .next t => check t
  | .fault _ => false
  | .refused _ => false

/-- A state of the framing machine: count, accumulator, last value. -/
def framing (count : Count) (acc : Addr) (last : Numfmt) : State :=
  { State.reset with halfBitCount := count, bitAccumulator := acc, lastPeakSign := last }

/-- A state of the detector: maximum, pending peak, counter. -/
def detector (m : Numfmt) (pending : Bool) (v : Numfmt) (p c : Ticks) : State :=
  { State.reset with maxPeakMagnitude := m, pkValid := pending, pkValue := v, pkPos := p, tickCnt := c }

/-- The framing registers of a state. -/
def frameIs (count : Count) (acc : Addr) (last : Numfmt) (t : State) : Bool :=
  decide (t.halfBitCount = count ∧ t.bitAccumulator = acc ∧ t.lastPeakSign = last)

/-- The detector's registers of a state. -/
def detectorIs (m : Numfmt) (pending : Bool) (v : Numfmt) (p c : Ticks) (t : State) : Bool :=
  decide (t.maxPeakMagnitude = m ∧ t.pkValid = pending ∧ t.pkValue = v ∧ t.pkPos = p ∧ t.tickCnt = c)

/-! ## Constants and well-formedness -/

/-- The types have the widths of R6 and R7; D8 and D10 want the values to fit. -/
theorem test_widths :
    (2 ^ config.cntW - 1 : Nat) = (BitVec.allOnes 8).toNat ∧ config.hbcW = 4 ∧ config.addrW = 6 ∧
    config.progW = 7 ∧ config.cmdW + 1 = 3 ∧ 17 ≤ 2 ^ config.cntW - 1 ∧ config.hbcMax.toNat < 2 ^ config.hbcW ∧
    config.progressScale < 2 ^ config.progW ∧ config.filterTerms = config.bufLen + 1 := by decide

/-- R101, R113: a branch above the threshold with a zero delta is ill formed. -/
theorem test_wellFormed_refuses_zero_delta :
    wellFormed (.pdStart 0) = false ∧ wellFormed (.pdMerge 0) = false ∧ wellFormed (.pdFinalReject 0) = false := by
  decide +kernel

/-- R70, R72: a row with a Peak of another gap class is ill formed. -/
theorem test_wellFormed_refuses_wrong_gap :
    wellFormed (.fsmStart ⟨1, 12⟩) = false ∧ wellFormed (.fsmNoise ⟨1, 10⟩) = false ∧
    wellFormed (.fsmHalf ⟨1, 7⟩) = false ∧ wellFormed (.fsmFull ⟨1, 8⟩) = false ∧
    wellFormed (.fsmLong ⟨1, 13⟩) = false ∧ wellFormed (.fsmBadtime ⟨1, 9⟩) = false := by decide

/-- The operands of the worked examples of R103 to R105 and R123 to R129 are well formed. -/
theorem test_wellFormed_accepts :
    wellFormed (.pdStart (-1)) = true ∧ wellFormed (.pdMerge 1) = true ∧ wellFormed (.pdFinalReject (3 / 2)) = true ∧
    wellFormed (.fsmStart ⟨-1, 10⟩) = true ∧ wellFormed (.fsmNoise ⟨1, 5⟩) = true ∧
    wellFormed (.fsmHalf ⟨1, 5⟩) = true ∧ wellFormed (.fsmFull ⟨1, 10⟩) = true ∧
    wellFormed (.fsmLong ⟨-1, 15⟩) = true ∧ wellFormed (.fsmBadtime ⟨-1, 5⟩) = true := by decide +kernel

/-! ## Decoding, by words written out from the spec -/

/-- V44. -/
theorem test_decode_cmd :
    decode (.cmd 0b000 5) = .ok .nop ∧ decode (.cmd 0b001 5) = .ok (.tickS 5) ∧
    decode (.cmd 0b010 5) = .ok (.tickD 5) ∧ decode (.cmd 0b011 5) = .ok .clear ∧
    decode (.cmd 0b100 5) = .ok .reset ∧ decode (.cmd 0b101 5) = .ok .reset ∧
    decode (.cmd 0b110 5) = .ok .reset ∧ decode (.cmd 0b111 5) = .ok .reset := ⟨rfl, rfl, rfl, rfl, rfl, rfl, rfl, rfl⟩

/-- V31, the PD words. -/
theorem test_decode_pd :
    decode (.pd 0b000 5) = .ok .pdIdle ∧ decode (.pd 0b001 5) = .ok .pdIdle ∧
    decode (.pd 0b010 5) = .ok .pdFinalBelow ∧ decode (.pd 0b011 5) = .ok .pdFinalBelow ∧
    decode (.pd 0b100 5) = .ok (.pdStart 5) ∧ decode (.pd 0b101 5) = .ok (.pdStart 5) ∧
    decode (.pd 0b110 5) = .ok (.pdFinalReject 5) ∧ decode (.pd 0b111 5) = .ok (.pdMerge 5) :=
  ⟨rfl, rfl, rfl, rfl, rfl, rfl, rfl, rfl⟩

/-- V31, the FSM words, with the other patterns of R72. -/
theorem test_decode_fsm :
    decode (.fsm 0b100010 ⟨1, 10⟩) = .ok (.fsmHold ⟨1, 10⟩) ∧ decode (.fsm 0b010010 ⟨1, 9⟩) = .ok (.fsmStart ⟨1, 9⟩) ∧
    decode (.fsm 0b011001 ⟨1, 6⟩) = .ok (.fsmNoise ⟨1, 6⟩) ∧ decode (.fsm 0b010000 ⟨1, 3⟩) = .ok (.fsmNoise ⟨1, 3⟩) ∧
    decode (.fsm 0b010011 ⟨1, 14⟩) = .ok (.fsmNoise ⟨1, 14⟩) ∧
    decode (.fsm 0b001110 ⟨1, 11⟩) = .ok (.fsmSignerr ⟨1, 11⟩) ∧
    decode (.fsm 0b000001 ⟨1, 4⟩) = .ok (.fsmHalf ⟨1, 4⟩) ∧ decode (.fsm 0b000101 ⟨1, 5⟩) = .ok (.fsmBadtime ⟨1, 5⟩) ∧
    decode (.fsm 0b000110 ⟨1, 10⟩) = .ok (.fsmFull ⟨1, 10⟩) ∧ decode (.fsm 0b000111 ⟨1, 16⟩) = .ok (.fsmLong ⟨1, 16⟩) ∧
    decode (.fsm 0b000011 ⟨1, 15⟩) = .ok (.fsmBadtime ⟨1, 15⟩) ∧
    decode (.fsm 0b000000 ⟨1, 17⟩) = .ok (.fsmBadtime ⟨1, 17⟩) :=
  ⟨rfl, rfl, rfl, rfl, rfl, rfl, rfl, rfl, rfl, rfl, rfl, rfl⟩

/-- What is no operation is rejected by name (log entry 7). -/
theorem test_decode_rejects :
    decode (.pd 0b100 0) = .error .zeroDelta ∧ decode (.fsm 0b000001 ⟨1, 7⟩) = .error .gapMismatch ∧
    decode (.unknown 64) = .error .noFormat := ⟨rfl, rfl, rfl⟩

/-- Words numbered as spec/opcode_table.json numbers them (log entry 8). -/
theorem test_tableWord :
    decodeTableWord 8 0b001 = some (.tickS 0) ∧ decodeTableWord 8 0b100 = some .reset ∧
    decodeTableWord 8 0b010010 = some (.fsmStart ⟨0, 9⟩) ∧ decodeTableWord 6 0b000111 = some (.fsmLong ⟨0, 14⟩) ∧
    decodeTableWord 8 64 = none := ⟨rfl, rfl, rfl, rfl, rfl⟩

/-- A table word is the next operation that a step runs. -/
theorem test_fetchWord :
    leaves (step (State.reset.withFetchWord 8 0b001)) (fun t => t.prevValid && decide (t.tickCnt = 1)) = true ∧
    leaves (step (State.reset.withFetchWord 8 0b010010)) (frameIs 2 0 0) = true := by decide +kernel

/-! ## Commands -/

/-- V42: the word `1 01` with 5 on `data_in`. -/
theorem test_reset_wins :
    leaves (step { framing 7 0b110000 1 with input := [.cmd 0b101 5] })
      (fun t => decide (t = State.reset)) = true := by decide +kernel

/-- R151. -/
theorem test_reset_outputs :
    leaves (exec .reset { framing 14 0b100101 (-1) with prevValid := true, pkValid := true, tickCnt := 9 })
      (fun t => decide (outputs t = ⟨0, 0, 0, 0⟩ ∧ t.prevValid = false ∧ t.pkValid = false)) = true := by decide +kernel

/-- R152: `hbc = 7`, pending peak `{+1, 5}`. -/
theorem test_nop :
    leaves (exec .nop { detector 1 true 1 5 1 with halfBitCount := 7 })
      (fun t => detectorIs 1 true 1 5 1 t && decide (t.halfBitCount = 7)) = true := by decide +kernel

/-- V41, in state 14: the address stays on the port. -/
theorem test_clear_terminal :
    leaves (exec .clear (framing 14 0b100101 (-1)))
      (fun t => decide (outputs t = ⟨37, 0, 0, 0⟩ ∧ validAddress t = none ∧ t.lastPeakSign = -1)) = true := by
  decide +kernel

/-- V41, in state 7: the pending peak is kept. -/
theorem test_clear_pending :
    leaves (exec .clear { framing 7 0b110000 1 with pkValid := true, pkValue := -1, pkPos := 10 })
      (fun t => frameIs 0 0b110000 1 t && decide (t.pkValid = true ∧ t.pkValue = -1 ∧ t.pkPos = 10)) = true := by
  decide +kernel

/-- V1. -/
theorem test_tickS_first :
    leaves (exec (.tickS 100) State.reset) (fun t => detectorIs 0 false 0 0 1 t &&
      decide (t.prevValid = true ∧ t.prevSample = 100 ∧ t.dbuf0 = 0 ∧ t.dbuf1 = 0 ∧ t.dbuf2 = 0)) = true := by
  decide +kernel

/-- V5, the second sample. -/
theorem test_tickS_negative :
    leaves (exec (.tickS (-1 / 2)) { State.reset with prevValid := true, prevSample := 1 / 2, tickCnt := 1 })
      (fun t => detectorIs (99 / 400) true (-1 / 4) 1 1 t && decide (t.dbuf2 = -1)) = true := by decide +kernel

/-- S3, second row: a tick below the threshold finalizes the pending peak. V6: the preprocessor is left alone. -/
theorem test_tickD_finalizes :
    leaves (exec (.tickD (1 / 4)) { framing 7 0b110000 1 with
        maxPeakMagnitude := 1, pkValid := true, pkValue := -1, pkPos := 10, tickCnt := 1,
        prevValid := true, prevSample := 7, dbuf1 := 4 })
      (fun t => frameIs 9 0b111000 (-1) t && decide (t.maxPeakMagnitude = 99 / 100 ∧ t.pkValid = false ∧
        t.tickCnt = 2 ∧ t.prevValid = true ∧ t.prevSample = 7 ∧ t.dbuf1 = 4)) = true := by decide +kernel

/-- V13: a delta exactly at the threshold is not above it. -/
theorem test_tickD_threshold_is_strict :
    leaves (exec (.tickD (9801 / 20000)) (detector (9801 / 10000) false 1 0 2))
      (detectorIs (970299 / 1000000) false 1 0 3) = true := by decide +kernel

/-! ## Preprocessor -/

/-- R91, worked example. -/
theorem test_preDelta :
    (runPreDelta 8 { State.reset with prevValid := true, prevSample := 4 }).1 = 4 ∧
    leaves (exec (.preDelta 8) { State.reset with prevValid := true, prevSample := 4 })
      (fun t => decide (t.prevSample = 8 ∧ t.prevValid = true)) = true := by decide +kernel

/-- R91, corner case: the first sample. -/
theorem test_preDelta_first : (runPreDelta 100 State.reset).1 = 0 := by decide +kernel

/-- R92, worked example. -/
theorem test_preFilter :
    (runPreFilter 1 { State.reset with dbuf0 := 4, dbuf1 := 4, dbuf2 := 1 }).1 = 5 / 2 ∧
    leaves (exec (.preFilter 1) { State.reset with dbuf0 := 4, dbuf1 := 4, dbuf2 := 1 })
      (fun t => decide (t = { State.reset with dbuf0 := 4, dbuf1 := 4, dbuf2 := 1 })) = true := by decide +kernel

/-- R93, worked example. -/
theorem test_preShift :
    leaves (exec (.preShift 1) { State.reset with dbuf0 := 4, dbuf1 := 4, dbuf2 := 1 })
      (fun t => decide (t.dbuf0 = 4 ∧ t.dbuf1 = 1 ∧ t.dbuf2 = 1)) = true := by decide +kernel

/-! ## Peak detector -/

/-- R101, worked example. -/
theorem test_pdTrack :
    leaves (exec (.pdTrack 0) (detector (99 / 100) false 0 0 0))
      (fun t => detectorIs (99 / 100) false 0 0 0 t && decide (threshold t = 99 / 200)) = true := by decide +kernel

/-- R101, corner case: the first delta other than 0, here negative. -/
theorem test_pdTrack_raises :
    leaves (exec (.pdTrack (-3)) State.reset)
      (fun t => detectorIs 3 false 0 0 0 t && condA (-3) t && !condA (3 / 2) t) = true := by decide +kernel

/-- R103, worked example. -/
theorem test_pdStart :
    leaves (exec (.pdStart (-1)) (detector 1 false 7 3 10)) (detectorIs 1 true (-1) 10 0) = true := by decide +kernel

/-- R104, worked example. -/
theorem test_pdMerge :
    leaves (exec (.pdMerge 1) (detector 1 true (1 / 2) 3 1)) (detectorIs 1 true 1 4 0) = true := by decide +kernel

/-- R104, R10: the position saturates. -/
theorem test_pdMerge_saturates :
    leaves (exec (.pdMerge 1) (detector 1 true (1 / 2) 255 1)) (detectorIs 1 true 1 255 0) = true := by decide +kernel

/-- R105, worked example. -/
theorem test_pdFinalReject :
    leaves (exec (.pdFinalReject (3 / 2)) (detector (99 / 40) true (5 / 2) 5 1))
      (fun t => frameIs 0 0 (5 / 2) t && detectorIs (99 / 40) false (5 / 2) 5 1 t) = true := by decide +kernel

/-- R106, worked example, from the idle state. -/
theorem test_pdFinalBelow :
    leaves (exec .pdFinalBelow (detector 1 true (-1) 10 1))
      (fun t => frameIs 2 0 (-1) t && detectorIs 1 false (-1) 10 1 t) = true := by decide +kernel

/-- R107, worked example. -/
theorem test_pdIdle :
    leaves (exec .pdIdle (detector (9801 / 10000) false 1 2 3)) (detectorIs (9801 / 10000) false 1 2 3) = true := by
  decide +kernel

/-- R108, worked example, and V15: saturation. -/
theorem test_pdCount :
    leaves (exec .pdCount (detector 1 true 1 0 0)) (detectorIs 1 true 1 0 1) = true ∧
    leaves (exec .pdCount (detector 1 true 1 0 255)) (detectorIs 1 true 1 0 255) = true := by decide +kernel

/-- R109, worked example. -/
theorem test_pdDecay :
    leaves (exec .pdDecay (detector (99 / 100) false 0 0 3)) (detectorIs (9801 / 10000) false 0 0 3) = true := by
  decide +kernel

/-- V10, V11, V12: an opposite, a smaller and an equal delta each finalize and open no peak; V18: a larger merges. -/
theorem test_branches :
    leaves (runBranch (-1) (detector 1 true 1 2 1)) (detectorIs 1 false 1 2 1) = true ∧
    leaves (runBranch (3 / 4) (detector (99 / 100) true 1 1 1)) (detectorIs (99 / 100) false 1 1 1) = true ∧
    leaves (runBranch 1 (detector 1 true 1 1 1)) (detectorIs 1 false 1 1 1) = true ∧
    leaves (runBranch (9 / 4) (detector (9 / 4) true 2 3 1)) (detectorIs (9 / 4) true (9 / 4) 4 0) = true := by
  decide +kernel

/-! ## Other number formats, by hand from R194 -/

/-- R194 c, in fixed point with 8 fraction bits: 99/100 is 253/256, so the decay differs from the reference. R194 d:
the smallest value decays to 0, after which any delta other than 0 is a peak. U6: 1/3 is no value of the format. -/
theorem test_fixedPoint :
    (fixedPoint 8).literal (99 / 100) = 253 / 256 ∧
    leaves (execIn (fixedPoint 8) .pdDecay (detector 1 false 0 0 0)) (detectorIs (253 / 256) false 0 0 0) = true ∧
    leaves (execIn (fixedPoint 8) .pdDecay (detector (1 / 256) false 0 0 0)) (detectorIs 0 false 0 0 0) = true ∧
    leaves (execIn (fixedPoint 8) (.tickD (1 / 256)) State.reset) (detectorIs 0 true (1 / 256) 0 1) = true ∧
    leaves (execIn (fixedPoint 8) (.tickD (1 / 3)) State.reset) (fun _ => true) = false := by decide +kernel

/-- The preprocessor's division in integers (no fraction bits): 10 / 4 is 2, not 5/2 (R92, R194). -/
theorem test_fixedPoint_filter :
    (runPreFilterIn (fixedPoint 0) 1 { State.reset with dbuf0 := 4, dbuf1 := 4, dbuf2 := 1 }).1 = 2 := by decide +kernel

/-! ## Framing state machine -/

/-- V24. -/
theorem test_fsmHold :
    leaves (finalize ⟨1, 10⟩ (framing 14 0b100101 (-1))) (frameIs 14 0b100101 1) = true ∧
    leaves (finalize ⟨1, 5⟩ (framing 14 0b100101 1)) (frameIs 14 0b100101 1) = true := by decide +kernel

/-- R123, worked example. -/
theorem test_fsmStart :
    leaves (exec (.fsmStart ⟨-1, 10⟩) (framing 0 0b110000 1)) (frameIs 2 0 1) = true := by decide +kernel

/-- R124, worked example. -/
theorem test_fsmNoise :
    leaves (exec (.fsmNoise ⟨1, 5⟩) (framing 0 0b110000 1)) (frameIs 0 0b110000 1) = true := by decide +kernel

/-- R125, worked example. -/
theorem test_fsmSignerr :
    leaves (finalize ⟨1, 10⟩ (framing 7 0b110000 1)) (frameIs 0 0b110000 1) = true := by decide +kernel

/-- V25: the sign comes before the timing. -/
theorem test_fsmSignerr_before_timing :
    leaves (finalize ⟨2, 7⟩ (framing 4 0 1)) (frameIs 0 0 2) = true ∧ fsmWord ⟨2, 7⟩ (framing 4 0 1) = 0b001000 ∧
    fsmWord ⟨-2, 7⟩ (framing 4 0 1) = 0b000000 := by decide +kernel

/-- R126, worked example. -/
theorem test_fsmHalf :
    leaves (exec (.fsmHalf ⟨1, 5⟩) (framing 2 0 (-1))) (frameIs 3 0b100000 (-1)) = true := by decide +kernel

/-- V23, first state: 13 is folded to 14. -/
theorem test_fsmHalf_fold :
    leaves (finalize ⟨-1, 5⟩ (framing 12 0b001010 1))
      (fun t => frameIs 14 0b100101 (-1) t && decide (outputs t = ⟨37, 100, 1, 14⟩)) = true := by decide +kernel

/-- R127, worked example. -/
theorem test_fsmFull :
    leaves (exec (.fsmFull ⟨1, 10⟩) (framing 10 0b010100 (-1))) (frameIs 12 0b001010 (-1)) = true := by decide +kernel

/-- V23, second state. -/
theorem test_fsmFull_fold :
    leaves (finalize ⟨1, 10⟩ (framing 11 0b010100 (-1))) (frameIs 14 0b101010 1) = true := by decide +kernel

/-- R128, worked example. -/
theorem test_fsmLong :
    leaves (exec (.fsmLong ⟨-1, 15⟩) (framing 3 0b100000 1)) (frameIs 6 0b010000 1) = true := by decide +kernel

/-- S8: the largest advance. -/
theorem test_fsmLong_to_14 :
    leaves (finalize ⟨-1, 15⟩ (framing 11 0b100000 1)) (frameIs 14 0b010000 (-1)) = true := by decide +kernel

/-- R129, worked example. -/
theorem test_fsmBadtime :
    leaves (exec (.fsmBadtime ⟨-1, 5⟩) (framing 7 0b110000 1)) (frameIs 0 0b110000 1) = true := by decide +kernel

/-- V26: the parity guards. -/
theorem test_fsmBadtime_parity :
    leaves (finalize ⟨-1, 5⟩ (framing 3 0 1)) (frameIs 0 0 (-1)) = true ∧
    leaves (finalize ⟨-1, 15⟩ (framing 4 0 1)) (frameIs 0 0 (-1)) = true := by decide +kernel

/-- R131, R132: recorded, and folded only from 13. -/
theorem test_fsmPost :
    leaves (exec (.fsmPost (-1)) (framing 13 0b100101 1)) (frameIs 14 0b100101 (-1)) = true ∧
    leaves (exec (.fsmPost (-1)) (framing 12 0b100101 1)) (frameIs 12 0b100101 (-1)) = true := by decide +kernel

/-- V27: the window edges. -/
theorem test_windows :
    (List.range 19).map (fun p => match finalize ⟨-1, BitVec.ofNat 8 p⟩ (framing 2 0 1) with
      | .next t => t.halfBitCount.toNat | .fault _ => 99 | .refused _ => 99)
      = [0, 0, 0, 0, 3, 3, 3, 0, 0, 4, 4, 4, 0, 0, 0, 0, 0, 0, 0] ∧
    (List.range 19).map (fun p => match finalize ⟨-1, BitVec.ofNat 8 p⟩ (framing 3 0 1) with
      | .next t => t.halfBitCount.toNat | .fault _ => 99 | .refused _ => 99)
      = [0, 0, 0, 0, 0, 0, 0, 0, 0, 5, 5, 5, 0, 0, 6, 6, 6, 0, 0] := by decide +kernel

/-- V21. -/
theorem test_shiftIn :
    (shiftIn (framing 3 0b101101 0)).bitAccumulator = 0b110110 ∧
    (shiftIn (framing 4 0b101101 0)).bitAccumulator = 0b010110 ∧
    (shiftIn (framing 4 0b000001 0)).bitAccumulator = 0 ∧
    (shiftIn (framing 4 0b111111 0)).bitAccumulator = 0b011111 := by decide

/-- V22. -/
theorem test_progress :
    (List.range 15).map (fun n => (progressPercent (framing (BitVec.ofNat 4 n) 0 0)).toNat)
      = [0, 7, 14, 21, 28, 35, 42, 50, 57, 64, 71, 78, 85, 92, 100] := by decide +kernel

/-- V30, address 37: its gaps; R85: the ticks of a frame. -/
theorem test_frame :
    (List.range 6).map (fun k => 5 * gapHalfBits 37 k) = [5, 15, 5, 15, 10, 5] ∧
    (frame 37 1).length = 67 ∧ (frame 22 1).length = 72 := by decide +kernel

/-- R84, R85: lines of stimulus, from 95_test_vectors.md. -/
theorem test_lines :
    lineOf "RESET            # word 1 --".toList = some [.reset] ∧ lineOf "# a comment".toList = some [] ∧
    lineOf "TICKD 9801/20000".toList = some [.tickD (9801 / 20000)] ∧
    lineOf "TICKS −0.25".toList = some [.tickS (-1 / 4)] ∧
    lineOf "REPS 2, 10".toList = some [.tickS 10, .tickS 10] ∧
    lineOf "IMP −1, 3".toList = some [.tickD 0, .tickD 0, .tickD (-1)] ∧
    lineOf "FRAME 64, 1".toList = none ∧ lineOf "JUMP".toList = none := by decide +kernel

/-! ## Witnesses: concrete operands and states that meet the hypotheses of a statement, clause by clause -/

/-- A state in mid-frame that meets every invariant, with a pending peak of the other sign. -/
def midFrame : State :=
  { framing 7 0b110000 1 with maxPeakMagnitude := 1, pkValid := true, pkValue := -1, pkPos := 10, tickCnt := 1,
                              input := [.cmd 0b010 (1 / 4), .cmd 0b011 0] }

/-- The same state with no pending peak. -/
def quiet : State :=
  { midFrame with pkValid := false, tickCnt := 3 }

theorem witness_PdWordSelectsItsBranch :
    ((0b111 : BitVec 3).getLsbD 2 = true → (-1 : Numfmt) ≠ 0) ∧
    ((0b010 : BitVec 3).getLsbD 2 = true → (0 : Numfmt) ≠ 0) := by decide +kernel

theorem witness_FsmWordSelectsItsRow :
    fsmGap 0b000001 = gapCode (gapClass 4) ∧ fsmGap 0b000101 = gapCode (gapClass 6) ∧
    fsmGap 0b010010 = gapCode (gapClass 9) ∧ fsmGap 0b000110 = gapCode (gapClass 11) ∧
    fsmGap 0b000111 = gapCode (gapClass 14) ∧ fsmGap 0b100011 = gapCode (gapClass 16) ∧
    fsmGap 0b000000 = gapCode (gapClass 255) := by decide

theorem witness_ContradictoryWordsAreRejected :
    (0b100 : BitVec 3).getLsbD 2 = true ∧ fsmGap 0b000001 ≠ gapCode (gapClass 7) ∧
    0 ≤ State.reset.maxPeakMagnitude := by decide +kernel

theorem witness_BranchRunIsTheDecodedOne : 0 ≤ midFrame.maxPeakMagnitude := by decide +kernel

theorem witness_DecodingInvertsEncoding :
    wellFormed (.fsmLong ⟨-1, 16⟩) = true ∧ encode (.fsmLong ⟨-1, 16⟩) = some (.fsm 0b000111 ⟨-1, 16⟩) ∧
    wellFormed (.pdMerge (-1)) = true ∧ encode (.pdMerge (-1)) = some (.pd 0b111 (-1)) := by decide +kernel

theorem witness_DecodedOperationIsWellFormed : decode (.fsm 0b000001 ⟨1, 4⟩) = .ok (.fsmHalf ⟨1, 4⟩) := rfl

theorem witness_StepRunsTheDecodedOperation :
    midFrame.input = .cmd 0b010 (1 / 4) :: [.cmd 0b011 0] ∧ decode (.cmd 0b010 (1 / 4)) = .ok (.tickD (1 / 4)) ∧
    ({ quiet with input := [.unknown 64] } : State).input = .unknown 64 :: [] ∧
    decode (.unknown 64) = .error .noFormat ∧ State.reset.input = [] := ⟨rfl, rfl, rfl, rfl, rfl⟩

theorem witness_FilteredDeltaTelescopes :
    ({ State.reset with prevValid := true } : State).prevValid = true ∧
    leaves (run [.tickS 4, .tickS 8, .tickS 9] { State.reset with prevValid := true }) (fun _ => true) = true := by
  decide +kernel

theorem witness_TickDLeavesThePreprocessor :
    leaves (exec (.tickD 9) { State.reset with prevValid := true, prevSample := 7, dbuf1 := 4 }) (fun _ => true)
      = true := by decide +kernel

theorem witness_FinalBranchesHandOverAndClear : LegalCount midFrame.halfBitCount := by decide

theorem witness_FinalizeTouchesOnlyFraming :
    leaves (finalize ⟨-1, 10⟩ midFrame) (fun _ => true) = true ∧ quiet.halfBitCount = midFrame.halfBitCount ∧
    quiet.bitAccumulator = midFrame.bitAccumulator ∧ quiet.lastPeakSign = midFrame.lastPeakSign := by decide +kernel

theorem witness_TickDWithoutFinalizing :
    (quiet.pkValid = false ∧ max quiet.maxPeakMagnitude |(1 : Numfmt)| / 2 < |1|) ∧
    (midFrame.pkValid = true ∧ max midFrame.maxPeakMagnitude |(-2 : Numfmt)| / 2 < |-2| ∧
      sign (-2) = sign midFrame.pkValue ∧ |midFrame.pkValue| < |-2|) ∧
    (quiet.pkValid = false ∧ |(1 / 2 : Numfmt)| ≤ max quiet.maxPeakMagnitude |1 / 2| / 2) := by decide +kernel

theorem witness_TickDFinalizes :
    midFrame.pkValid = true ∧ LegalCount midFrame.halfBitCount ∧
    ¬ (max midFrame.maxPeakMagnitude |(-1 : Numfmt)| / 2 < |-1| ∧ sign (-1) = sign midFrame.pkValue ∧
      |midFrame.pkValue| < |-1|) := by decide +kernel

theorem witness_TickWithoutPendingPeakKeepsFraming :
    quiet.pkValid = false ∧ (∃ x, Instr.tickS 5 = .tickS x) ∧ ∃ d, Instr.tickD 5 = .tickD d :=
  ⟨rfl, ⟨5, rfl⟩, ⟨5, rfl⟩⟩

theorem witness_QuietTicksDecayAndCount : quiet.pkValid = false ∧ 0 ≤ quiet.maxPeakMagnitude := by decide +kernel

/-- `midFrame` with every sample `x` read as `-2 * x + 3`. -/
def scaledMidFrame : State :=
  { midFrame with maxPeakMagnitude := 2, pkValue := 2, lastPeakSign := -2 }

theorem witness_ScalingChangesNoDecision :
    (-2 : Numfmt) ≠ 0 ∧ Scaled (-2) 3 midFrame scaledMidFrame ∧ ScaledCommand (-2) 3 .reset .reset ∧
    ScaledCommand (-2) 3 .nop .nop ∧ ScaledCommand (-2) 3 .clear .clear ∧
    ScaledCommand (-2) 3 (.tickS 5) (.tickS (-2 * 5 + 3)) ∧ ScaledCommand (-2) 3 (.tickD 5) (.tickD (-2 * 5)) := by
  refine ⟨by decide +kernel, ?_, .reset, .nop, .clear, .tickS 5, .tickD 5⟩
  constructor <;> decide +kernel

theorem witness_invariants :
    Invariant midFrame ∧ SignRecorded midFrame ∧ GapAtLeastTwo midFrame ∧
    leaves (step midFrame) (fun _ => true) = true := by decide +kernel

theorem witness_PlateauGivesTwoPeaks :
    quiet.pkValid = false ∧ LegalCount quiet.halfBitCount ∧ (-1 : Numfmt) ≠ 0 ∧
    quiet.maxPeakMagnitude / 2 < |(-1 : Numfmt)| := by decide +kernel

theorem witness_FsmHoldKeepsTheTerminalState : (framing 14 0b100101 (-1)).halfBitCount = 14 := rfl

theorem witness_FsmStartStartsAFrame :
    (framing 0 0 0).halfBitCount = 0 ∧ 9 ≤ (9 : Ticks).toNat ∧ (11 : Ticks).toNat ≤ 11 := by decide

theorem witness_FsmNoiseKeepsIdle :
    (framing 0 0 0).halfBitCount = 0 ∧ ¬ (9 ≤ (8 : Ticks).toNat ∧ (8 : Ticks).toNat ≤ 11) ∧
    ¬ (9 ≤ (12 : Ticks).toNat ∧ (12 : Ticks).toNat ≤ 11) := by decide

theorem witness_FsmSignerrResetsTheCount :
    midFrame.halfBitCount ≠ 0 ∧ midFrame.halfBitCount ≠ 14 ∧ sign 2 = sign midFrame.lastPeakSign := by decide +kernel

theorem witness_FsmHalfAddsOne :
    (framing 13 0 1).halfBitCount.toNat + 1 ≤ 14 ∧ (framing 12 0 1).halfBitCount.toNat % 2 = 0 ∧
    (framing 12 0 1).halfBitCount ≠ 0 ∧ (framing 12 0 1).halfBitCount ≠ 14 ∧
    sign (-1) ≠ sign (framing 12 0 1).lastPeakSign ∧ 4 ≤ (4 : Ticks).toNat ∧ (6 : Ticks).toNat ≤ 6 := by
  decide +kernel

theorem witness_FsmFullAddsTwo :
    (framing 12 0 1).halfBitCount.toNat + 2 ≤ 14 ∧ 1 ≤ (framing 12 0 1).halfBitCount.toNat ∧
    (framing 12 0 1).halfBitCount.toNat ≤ 12 ∧ sign (-1) ≠ sign (framing 12 0 1).lastPeakSign ∧
    9 ≤ (9 : Ticks).toNat ∧ (11 : Ticks).toNat ≤ 11 := by decide +kernel

theorem witness_FsmLongAddsThree :
    (framing 11 0 1).halfBitCount.toNat + 3 ≤ 14 ∧ (framing 11 0 1).halfBitCount.toNat % 2 = 1 ∧
    (framing 11 0 1).halfBitCount.toNat ≤ 11 ∧ sign (-1) ≠ sign (framing 11 0 1).lastPeakSign ∧
    14 ≤ (14 : Ticks).toNat ∧ (16 : Ticks).toNat ≤ 16 := by decide +kernel

theorem witness_FsmBadtimeResetsTheCount :
    midFrame.halfBitCount ≠ 0 ∧ midFrame.halfBitCount ≠ 14 ∧ sign (-1) ≠ sign midFrame.lastPeakSign ∧
    gapClass 17 = .other ∧ gapClass 6 = .short ∧ midFrame.halfBitCount.toNat % 2 = 1 ∧
    gapClass 14 = .long ∧ (framing 2 0 1).halfBitCount.toNat % 2 = 0 := by decide +kernel

theorem witness_AdvanceAboveTerminalIsRefused :
    14 < (framing 14 0 1).halfBitCount.toNat + 1 ∧ 14 < (framing 13 0 1).halfBitCount.toNat + 2 ∧
    14 < (framing 12 0 1).halfBitCount.toNat + 3 := by decide

theorem witness_FinalizeFollowsTheTransitionTable :
    LegalCount (framing 0 0 1).halfBitCount ∧ LegalCount (framing 12 0 1).halfBitCount ∧
    LegalCount (framing 14 0 1).halfBitCount := by decide

theorem witness_AcceptedTransitionAdvancesOneCell :
    LegalCount (framing 12 0 1).halfBitCount ∧ (framing 12 0 1).halfBitCount ≠ 0 ∧
    (framing 12 0 1).halfBitCount ≠ 14 ∧
    leaves (finalize ⟨-1, 5⟩ (framing 12 0 1)) (fun t => decide (t.halfBitCount ≠ 0)) = true := by decide +kernel

theorem witness_CountOnlyIncreasesOrResets :
    (Instr.tickD (1 / 4)).isCommand = true ∧ LegalCount midFrame.halfBitCount ∧
    leaves (exec (.tickD (1 / 4)) midFrame) (fun _ => true) = true := by decide +kernel

theorem witness_OnlyClearAndResetLeaveTheTerminalState :
    (Instr.tickS 5).isCommand = true ∧ (framing 14 0b100101 (-1)).halfBitCount = 14 ∧
    Instr.tickS 5 ≠ .clear ∧ Instr.tickS 5 ≠ .reset := by decide +kernel

theorem witness_EveryFrameAssemblesItsAddress :
    (framing 0 0 0).halfBitCount = 0 ∧ gapClass 11 = .normal ∧
    (∀ k < 6, gapClass (BitVec.ofNat 8 (5 * gapHalfBits 37 k)) = classOfHalfBits (gapHalfBits 37 k)) ∧
    (∀ k < 6, sign ((-1 : Numfmt) ^ (k + 1)) ≠ sign ((-1 : Numfmt) ^ k)) := by decide +kernel

theorem witness_FrameOfEveryAddressIsDecoded : (0 : Numfmt) < 1 / 1000 := by decide +kernel

theorem witness_ResetCommandClearsEveryRegister : (0b101 : BitVec 3).getLsbD 2 = true := by decide

theorem witness_DoneIsTheTerminalState :
    done (framing 14 0b100101 (-1)) = 1 ∧ Instr.nop.isCommand = true ∧ Instr.nop ≠ .clear ∧ Instr.nop ≠ .reset := by
  decide +kernel

theorem witness_EveryCommandCompletes :
    (Instr.tickS 5).isCommand = true ∧ LegalCount midFrame.halfBitCount := by decide

end Sys2Proof.Tests
end

section
/-! SUPPORT. What one step on a command can do: the request is a command, so it decodes; the step takes it and runs
it. Every invariant of the whole machine is proved from `step_command_cases` and `tick_next_cases`. -/

namespace Sys2Proof.Machine

/-- Every word of the command port decodes, and to a command (R66, R81). -/
theorem decode_of_isCommand {r : Request} (h : r.isCommand = true) :
    ∃ i, decode r = .ok i ∧ i.isCommand = true := by
  cases r with
  | cmd w x =>
    have covered : ∀ w : BitVec 3, (cmdRows.find? fun r => r.matches w).isSome = true := by decide
    obtain ⟨row, hrow⟩ := Option.isSome_iff_exists.mp (covered w)
    have builds : ∀ row ∈ cmdRows, (row.build x).isCommand = true := by simp [cmdRows, Instr.isCommand]
    exact ⟨row.build x, by simp [decode, selectRowOf, hrow], builds row (List.mem_of_find?_eq_some hrow)⟩
  | pd w d => cases h
  | fsm w pk => cases h
  | unknown w => cases h

/-- A command that completes keeps the state, resets it, clears the framing, or runs one tick after writing at most
the preprocessor's registers. -/
theorem exec_command_cases {i : Instr} {s t : State} (hi : i.isCommand = true) (h : exec i s = .next t) :
    t = s ∨ t = { State.reset with input := s.input } ∨ t = invalidateFraming s ∨
    ∃ d pv ps b0 b1 b2, tick d
      { s with prevValid := pv, prevSample := ps, dbuf0 := b0, dbuf1 := b1, dbuf2 := b2 } = .next t := by
  cases i with
  | nop => cases h; exact .inl rfl
  | reset => cases h; exact .inr (.inl rfl)
  | clear => cases h; exact .inr (.inr (.inl rfl))
  | tickS x => exact .inr (.inr (.inr ⟨_, _, _, _, _, _, h⟩))
  | tickD d => exact .inr (.inr (.inr ⟨d, _, _, _, _, _, h⟩))
  | _ => cases hi

/-- One step while the caller presents commands: it takes requests off the list and does what a command does. -/
theorem step_command_cases {s t : State} (hin : ∀ r ∈ s.input, r.isCommand = true) (h : step s = .next t) :
    ∃ rest, rest ⊆ s.input ∧
      (t = { s with input := rest } ∨ t = { State.reset with input := rest } ∨
       t = invalidateFraming { s with input := rest } ∨
       ∃ d pv ps b0 b1 b2, tick d { s with input := rest, prevValid := pv, prevSample := ps,
                                           dbuf0 := b0, dbuf1 := b1, dbuf2 := b2 } = .next t) := by
  unfold step at h
  cases hs : s.input with
  | nil =>
    rw [hs] at h
    cases h
    exact ⟨[], List.Subset.refl _, .inl (by rw [← hs])⟩
  | cons r rest =>
    obtain ⟨i, hdec, hi⟩ := decode_of_isCommand (hin r (by simp [hs]))
    simp only [hs, hdec] at h
    exact ⟨rest, List.subset_cons_self r rest, exec_command_cases hi h⟩

/-- A tick that completes, register by register: it starts a peak, stays idle, merges, or finalizes the pending peak,
whose value is then the one recorded (R102, R131). -/
theorem tick_next_cases {d : Numfmt} {s t : State} (h : tick d s = .next t) :
    let m := max s.maxPeakMagnitude |d|
    (s.pkValid = false ∧ m / 2 < |d| ∧ t = { s with
      maxPeakMagnitude := m * (99 / 100), pkValid := true, pkValue := d, pkPos := s.tickCnt, tickCnt := 1 }) ∨
    (s.pkValid = false ∧ |d| ≤ m / 2 ∧ t = { s with
      maxPeakMagnitude := m * (99 / 100), tickCnt := satInc s.tickCnt }) ∨
    (s.pkValid = true ∧ m / 2 < |d| ∧ t = { s with
      maxPeakMagnitude := m * (99 / 100), pkValue := d, pkPos := satInc s.pkPos, tickCnt := 1 }) ∨
    (s.pkValid = true ∧ ∃ u, finalize (pendingPeak s) { s with maxPeakMagnitude := m } = .next u ∧ t = { s with
      maxPeakMagnitude := m * (99 / 100), pkValid := false, tickCnt := satInc s.tickCnt,
      halfBitCount := u.halfBitCount, bitAccumulator := u.bitAccumulator, lastPeakSign := s.pkValue }) := by
  intro m
  rcases tick_cases d s with ⟨hv, ha, ht⟩ | ⟨hv, ha, ht⟩ | ⟨hv, ha, -, -, ht⟩ | ⟨hv, -, ht⟩
  · exact .inl ⟨hv, ha, by rw [ht] at h; cases h; rfl⟩
  · exact .inr (.inl ⟨hv, ha, by rw [ht] at h; cases h; rfl⟩)
  · exact .inr (.inr (.inl ⟨hv, ha, by rw [ht] at h; cases h; rfl⟩))
  · obtain ⟨u, hu, hafter⟩ := andThen_eq_next.mp (ht.symm.trans h)
    refine .inr (.inr (.inr ⟨hv, u, hu, ?_⟩))
    cases hafter
    rw [finalize_frame hu]
    rfl

end Sys2Proof.Machine
end

section
/-! SUPPORT. What a Peak and a tick do to the registers of the invariants (R39, R40). -/

namespace Sys2Proof.Machine

/-- An advance that completes adds its half-bits, and ends at 14 or below (R136). -/
theorem advance_halfBitCount {n : Nat} {s t : State} (h : advance n s = .next t) :
    t.halfBitCount.toNat = s.halfBitCount.toNat + n ∧ t.halfBitCount.toNat ≤ 14 := by
  by_cases hle : s.halfBitCount.toNat + n ≤ 14
  · rw [advance_next hle] at h
    cases h
    simp only [shiftIn_halfBitCount, BitVec.toNat_add, BitVec.toNat_ofNat]
    omega
  · rw [advance_refused (by omega)] at h
    cases h

/-- An advance out of a state other than idle ends at neither 1 nor 15. -/
theorem advance_count_ne {n : Nat} {s t : State} (hn : 1 ≤ n) (hs : s.halfBitCount ≠ 0)
    (h : advance n s = .next t) : t.halfBitCount ≠ 1 ∧ t.halfBitCount ≠ 15 := by
  obtain ⟨hadd, hle⟩ := advance_halfBitCount h
  have hpos : s.halfBitCount.toNat ≠ 0 := fun h0 => hs (BitVec.eq_of_toNat_eq h0)
  refine ⟨fun h1 => ?_, fun h15 => ?_⟩
  · have hone : 1 = s.halfBitCount.toNat + n := by rw [h1] at hadd; exact hadd
    omega
  · rw [h15] at hle
    exact absurd hle (by decide)

/-- A row never ends at 1 or 15; 13, which `FSM_POST` folds, is still possible (R132, R139). -/
theorem runRow_count_ne {pk : Peak} {s t : State} (hs : LegalCount s.halfBitCount)
    (h : runRow pk s = .next t) : t.halfBitCount ≠ 1 ∧ t.halfBitCount ≠ 15 := by
  obtain ⟨hs1, -, hs15⟩ := hs
  rcases runRow_cases pk s with ⟨hr, -⟩ | ⟨hr, -, -⟩ |
    ⟨-, hbusy, hr | ⟨-, ⟨hr, -⟩ | ⟨hr, -⟩ | ⟨hr, -⟩⟩⟩
  · cases hr.symm.trans h; exact ⟨hs1, hs15⟩
  · cases hr.symm.trans h; simp
  · cases hr.symm.trans h; simp
  · exact advance_count_ne (by decide) hbusy (hr.symm.trans h)
  · exact advance_count_ne (by decide) hbusy (hr.symm.trans h)
  · exact advance_count_ne (by decide) hbusy (hr.symm.trans h)

/-- The idle count can be stored: a frame can be given up at any time (R139, R181). -/
theorem legalCount_zero : LegalCount 0 := by decide

/-- A finalized Peak leaves a count that can be stored (R139). -/
theorem finalize_legalCount {pk : Peak} {s t : State} (h : finalize pk s = .next t)
    (hs : LegalCount s.halfBitCount) : LegalCount t.halfBitCount := by
  obtain ⟨u, hu, hpost⟩ := andThen_eq_next.mp h
  obtain ⟨h1, h15⟩ := runRow_count_ne hs hu
  cases hpost
  rw [foldCount_halfBitCount, recordPeak_halfBitCount, config_hbcFold, config_hbcMax]
  by_cases h13 : u.halfBitCount = 13
  · rw [if_pos h13]; decide
  · rw [if_neg h13]; exact ⟨h1, h13, h15⟩

/-- A delta above the threshold is not 0: the maximum is at least its magnitude (R101, R113). -/
theorem ne_zero_of_above_threshold {d m : Numfmt} (h : max m |d| / 2 < |d|) : d ≠ 0 := by
  rintro rfl
  have := le_max_right m |(0 : Numfmt)|
  simp only [abs_zero] at h this
  linarith

/-- A tick keeps the invariant (R39). -/
theorem tick_keeps_invariant {d : Numfmt} {s t : State} (h : tick d s = .next t) (hs : Invariant s) :
    Invariant t := by
  obtain ⟨hcount, -, -, hin⟩ := hs
  have hmax : 0 ≤ max s.maxPeakMagnitude |d| * (99 / 100) :=
    mul_nonneg (le_max_of_le_right (abs_nonneg d)) (by norm_num)
  rcases tick_next_cases h with ⟨-, habove, rfl⟩ | ⟨hv, -, rfl⟩ | ⟨-, habove, rfl⟩ | ⟨-, u, hu, rfl⟩
  · exact ⟨hcount, hmax, fun _ => ne_zero_of_above_threshold habove, hin⟩
  · exact ⟨hcount, hmax, fun hp => absurd (hv.symm.trans hp) Bool.false_ne_true, hin⟩
  · exact ⟨hcount, hmax, fun _ => ne_zero_of_above_threshold habove, hin⟩
  · have hcount' : LegalCount u.halfBitCount := finalize_legalCount hu hcount
    exact ⟨hcount', hmax, nofun, hin⟩

/-- A tick keeps the sign recorded: a Peak that leaves the idle state is the pending one, whose value is not 0
(R40, R113). -/
theorem tick_keeps_signRecorded {d : Numfmt} {s t : State} (h : tick d s = .next t)
    (hpk : s.pkValid = true → s.pkValue ≠ 0) (hs : SignRecorded s) : SignRecorded t := by
  rcases tick_next_cases h with ⟨-, -, rfl⟩ | ⟨-, -, rfl⟩ | ⟨-, -, rfl⟩ | ⟨hv, u, -, rfl⟩
  · exact hs
  · exact hs
  · exact hs
  · exact fun _ _ => hpk hv

end Sys2Proof.Machine
end

section
/-! The invariants of the whole machine (10_state.md R38 to R40). -/

namespace Sys2Proof.Machine

/-- Settles O47: a step shortens the input at most, `RESET` and `CLEAR` set the count to 0, and a tick keeps every
clause. -/
theorem stepKeepsTheInvariant : Obligations.StepKeepsTheInvariant := by
  intro s t hs h
  obtain ⟨hcount, hmax, hpk, hin⟩ := hs
  obtain ⟨rest, hsub, hcases⟩ := step_command_cases hin h
  have hrest : ∀ r ∈ rest, r.isCommand = true := fun r hr => hin r (hsub hr)
  rcases hcases with rfl | rfl | rfl | ⟨d, pv, ps, b0, b1, b2, htick⟩
  · exact ⟨hcount, hmax, hpk, hrest⟩
  · exact ⟨legalCount_zero, le_rfl, nofun, hrest⟩
  · exact ⟨legalCount_zero, hmax, hpk, hrest⟩
  · exact tick_keeps_invariant htick ⟨hcount, hmax, hpk, hrest⟩

/-- Settles O48: `RESET` and `CLEAR` go to the idle state, and a tick that changes the framing records the pending
peak's value. -/
theorem stepKeepsTheSignRecorded : Obligations.StepKeepsTheSignRecorded := by
  intro s t hs hsign h
  obtain ⟨-, -, hpk, hin⟩ := hs
  obtain ⟨rest, -, rfl | rfl | rfl | ⟨d, pv, ps, b0, b1, b2, htick⟩⟩ := step_command_cases hin h
  · exact hsign
  · exact fun hidle => absurd rfl hidle
  · exact fun hidle => absurd rfl hidle
  · exact tick_keeps_signRecorded htick hpk hsign

/-- Settles O45: by the definition of the reset state and of the ports. -/
theorem resetStateIsAllZero : Obligations.ResetStateIsAllZero :=
  ⟨rfl, rfl⟩

/-- Settles O46: after reset the machine is idle with no pending peak, so every clause is vacuous or about 0. -/
theorem resetMeetsTheInvariants : Obligations.ResetMeetsTheInvariants :=
  ⟨⟨legalCount_zero, le_rfl, nofun, nofun⟩, fun hidle => absurd rfl hidle, nofun, fun hlast => absurd rfl hlast⟩

end Sys2Proof.Machine
end

section
/-! One step, an equation per case of the next request (20_memory.md R58, 30_encoding.md R65). -/

namespace Sys2Proof.Machine

/-- With nothing presented the state stays (log entry 3). -/
theorem step_of_input_nil {s : State} (hin : s.input = []) : step s = .next s := by
  simp only [step, hin]

/-- A request that decodes is taken off the list and its operation runs on what is left (R58, R65). -/
theorem step_of_decode_ok {s : State} {r : Request} {rest : List Request} {i : Instr}
    (hin : s.input = r :: rest) (hdec : decode r = .ok i) : step s = exec i { s with input := rest } := by
  simp only [step, hin, hdec]

/-- A request that is no operation is refused by name (log entry 7). -/
theorem step_of_decode_error {s : State} {r : Request} {rest : List Request} {e : DecodeError}
    (hin : s.input = r :: rest) (hdec : decode r = .error e) : step s = .refused (.badWord e) := by
  simp only [step, hin, hdec]

/-- Settles O10: one equation of `step` for each case of the input and of the decoder's answer. -/
theorem stepRunsTheDecodedOperation : Obligations.StepRunsTheDecodedOperation :=
  ⟨fun _ _ _ _ => step_of_decode_ok, fun _ _ _ _ => step_of_decode_error, fun _ => step_of_input_nil⟩

end Sys2Proof.Machine
end

section
/-! The decoder by the bits of its words (30_encoding.md R66, R69, R72): each format's table as one equation, the words
it rejects, and the agreement with the encoder. -/

namespace Sys2Proof.Machine

/-- A word of three bits, written as R65 and R68 write it. -/
theorem word3_eq_bits (w : BitVec 3) :
    ∃ a b c, w = BitVec.ofBool a ++ BitVec.ofBool b ++ BitVec.ofBool c := by
  revert w; decide

/-- An FSM word, written as R70 writes it: four conditions and the code of a gap class. -/
theorem word6_eq_bits (w : BitVec 6) : ∃ (t z s p : Bool) (g : BitVec 2),
    w = BitVec.ofBool t ++ BitVec.ofBool z ++ BitVec.ofBool s ++ BitVec.ofBool p ++ g := by
  revert w; decide +kernel

theorem gapCode_eq_short {g : GapClass} : gapCode g = 0b01 ↔ g = .short := by cases g <;> decide
theorem gapCode_eq_normal {g : GapClass} : gapCode g = 0b10 ↔ g = .normal := by cases g <;> decide
theorem gapCode_eq_long {g : GapClass} : gapCode g = 0b11 ↔ g = .long := by cases g <;> decide

/-- The bit `A` of the PD word (R68). -/
theorem pdWord_getLsbD_two (d : Numfmt) (s : State) : (pdWord d s).getLsbD 2 = condA d s := by
  have first : ∀ a v m, (BitVec.ofBool a ++ BitVec.ofBool v ++ BitVec.ofBool m).getLsbD 2 = a := by decide
  exact first _ _ _

/-- A PD word that does not contradict its delta decodes by its row. -/
theorem decode_pd {w : BitVec 3} {d : Numfmt} (h : w.getLsbD 2 = true → d ≠ 0) :
    decode (.pd w d) = selectRowOf pdRows w d := by
  simp only [decode, pdAbove]
  exact if_neg (by simpa using h)

/-- An FSM word that agrees with its Peak decodes by its row. -/
theorem decode_fsm {w : BitVec 6} {pk : Peak} (h : fsmGap w = gapCode (gapClass pk.position)) :
    decode (.fsm w pk) = selectRowOf fsmRows w pk :=
  if_pos h

/-- `A = 1` on a zero delta is rejected (log entry 7). -/
theorem decode_pd_zeroDelta {w : BitVec 3} (h : w.getLsbD 2 = true) : decode (.pd w 0) = .error .zeroDelta :=
  if_pos (by simpa [pdAbove] using h)

/-- Bits `G` that are not the class of the Peak are rejected (log entry 7). -/
theorem decode_fsm_gapMismatch {w : BitVec 6} {pk : Peak} (h : fsmGap w ≠ gapCode (gapClass pk.position)) :
    decode (.fsm w pk) = .error .gapMismatch :=
  if_neg h

/-- Settles O8: the round trip of each operation. -/
theorem decodingInvertsEncoding : Obligations.DecodingInvertsEncoding := by
  intro i
  cases i with
  | reset => exact Laws.RoundTrip.reset
  | nop => exact Laws.RoundTrip.nop
  | tickS x => exact Laws.RoundTrip.tickS x
  | tickD d => exact Laws.RoundTrip.tickD d
  | clear => exact Laws.RoundTrip.clear
  | preDelta x => exact Laws.RoundTrip.preDelta x
  | preFilter raw => exact Laws.RoundTrip.preFilter raw
  | preShift raw => exact Laws.RoundTrip.preShift raw
  | pdTrack d => exact Laws.RoundTrip.pdTrack d
  | pdStart d => exact Laws.RoundTrip.pdStart d
  | pdMerge d => exact Laws.RoundTrip.pdMerge d
  | pdFinalReject d => exact Laws.RoundTrip.pdFinalReject d
  | pdFinalBelow => exact Laws.RoundTrip.pdFinalBelow
  | pdIdle => exact Laws.RoundTrip.pdIdle
  | pdCount => exact Laws.RoundTrip.pdCount
  | pdDecay => exact Laws.RoundTrip.pdDecay
  | fsmHold pk => exact Laws.RoundTrip.fsmHold pk
  | fsmStart pk => exact Laws.RoundTrip.fsmStart pk
  | fsmNoise pk => exact Laws.RoundTrip.fsmNoise pk
  | fsmSignerr pk => exact Laws.RoundTrip.fsmSignerr pk
  | fsmHalf pk => exact Laws.RoundTrip.fsmHalf pk
  | fsmFull pk => exact Laws.RoundTrip.fsmFull pk
  | fsmLong pk => exact Laws.RoundTrip.fsmLong pk
  | fsmBadtime pk => exact Laws.RoundTrip.fsmBadtime pk
  | fsmPost v => exact Laws.RoundTrip.fsmPost v

/-- Settles O1: by the three bits `{rst, cmd[1], cmd[0]}`. -/
theorem commandWordSelectsItsCommand : Obligations.CommandWordSelectsItsCommand := by
  intro w x
  obtain ⟨rst, c1, c0, rfl⟩ := word3_eq_bits w
  cases rst <;> cases c1 <;> cases c0 <;> rfl

/-- Settles O2: by the three bits `{A, V, M}`. -/
theorem pdWordSelectsItsBranch : Obligations.PdWordSelectsItsBranch := by
  intro w d h
  rw [decode_pd h]
  clear h
  obtain ⟨a, v, m, rfl⟩ := word3_eq_bits w
  cases a <;> cases v <;> cases m <;> rfl

/-- Settles O3: by the four conditions and, where the table looks at them, the bits `G`. -/
theorem fsmWordSelectsItsRow : Obligations.FsmWordSelectsItsRow := by
  intro w pk h
  rw [decode_fsm h]
  clear h
  obtain ⟨t, z, s, p, g, rfl⟩ := word6_eq_bits w
  have codes : ∀ g : BitVec 2, g = 0b00 ∨ g = 0b01 ∨ g = 0b10 ∨ g = 0b11 := by decide
  rcases codes g with rfl | rfl | rfl | rfl <;> cases t <;> cases z <;> cases s <;> cases p <;> rfl

/-- Settles O4: both rejections are the decoder's first test; `A` asks for a magnitude above half the maximum, which 0
is not; and the FSM word carries the class of its Peak by construction. -/
theorem contradictoryWordsAreRejected : Obligations.ContradictoryWordsAreRejected := by
  refine ⟨fun w => decode_pd_zeroDelta, fun w pk => decode_fsm_gapMismatch, ?_, ?_⟩
  · rintro d s hmax ⟨hA, rfl⟩
    rw [pdWord_getLsbD_two, condA_iff, abs_zero] at hA
    linarith
  · exact fun pk s => Laws.fsmGap_withGap _ pk

/-- Settles O9: the answers are those of the three tables. Above the threshold the delta is not 0, and the rows that
look at `G` look at the class of the Peak. -/
theorem decodedOperationIsWellFormed : Obligations.DecodedOperationIsWellFormed := by
  intro r i h
  cases r with
  | cmd w x =>
    rw [commandWordSelectsItsCommand] at h
    cases h
    split_ifs <;> exact ⟨rfl, rfl⟩
  | pd w d =>
    by_cases hd : w.getLsbD 2 = true → d ≠ 0
    · rw [pdWordSelectsItsBranch w d hd] at h
      cases h
      split_ifs <;> simp_all [wellFormed, encode]
    · obtain ⟨hA, rfl⟩ : w.getLsbD 2 = true ∧ d = 0 := by simpa using hd
      rw [decode_pd_zeroDelta hA] at h
      cases h
  | fsm w pk =>
    by_cases hG : fsmGap w = gapCode (gapClass pk.position)
    · rw [fsmWordSelectsItsRow w pk hG] at h
      cases h
      rw [show w.extractLsb' 0 2 = gapCode (gapClass pk.position) from hG]
      simp only [gapCode_eq_short, gapCode_eq_normal, gapCode_eq_long]
      split_ifs <;> simp_all [wellFormed, encode]
    · rw [decode_fsm_gapMismatch hG] at h
      cases h
  | unknown w => cases h

/-- Settles O5: the written-out words are single lines of the three tables' equations; the tables are finite. -/
theorem tableWordsDecodeAndCover : Obligations.TableWordsDecodeAndCover := by
  refine ⟨commandWordSelectsItsCommand 0b001 5, commandWordSelectsItsCommand 0b101 5,
    pdWordSelectsItsBranch 0b111 (-1) fun _ => by norm_num, pdWordSelectsItsBranch 0b001 0 nofun,
    fsmWordSelectsItsRow 0b000001 ⟨1, 5⟩ rfl, fsmWordSelectsItsRow 0b000111 ⟨-1, 15⟩ rfl, ?_, ?_, ?_⟩
  · decide
  · decide
  · decide

/-- Settles O11: the windows of R71 with their constants in place. -/
theorem gapClassFollowsTheWindows : Obligations.GapClassFollowsTheWindows :=
  ⟨gapClass_eq, rfl, rfl, rfl, rfl⟩

end Sys2Proof.Machine
end

section
/-! The line code at the state machine (30_encoding.md R76, R79; 42_framing_fsm.md R140): after each Peak of a frame the
count stands at the half-bit where that Peak lands, and the accumulator holds the bits of the cells so far. -/

namespace Sys2Proof.Machine

/-- Some Peaks, then one more. -/
theorem injectPeaks_concat (pks : List Peak) (pk : Peak) (s : State) :
    injectPeaks (pks ++ [pk]) s = andThen (injectPeaks pks s) (finalize pk) := by
  induction pks generalizing s with
  | nil => cases h : finalize pk s <;> simp [injectPeaks, andThen, h]
  | cons q rest ih => cases h : finalize q s <;> simp [injectPeaks, andThen, h, ih]

/-- The half-bit where the `k` cells before cell `k` end, the preamble being 2 (R79). -/
def cellStart (a : Addr) : Nat → Nat
  | 0 => 2
  | k + 1 => landing a k

theorem gapHalfBits_eq (a : Addr) (k : Nat) : gapHalfBits a k = landing a k - cellStart a k := by
  cases k <;> rfl

/-- Cell `k` starts at the end of the cell before it or half a bit earlier (R76). -/
theorem cellStart_bounds (a : Addr) (k : Nat) : 2 * k + 1 ≤ cellStart a k ∧ cellStart a k ≤ 2 * k + 2 := by
  cases k with
  | zero => simp [cellStart]
  | succ k => simp only [cellStart, landing]; split <;> omega

/-- The transition of cell `k` lands at an odd half-bit for a 1, at an even one for a 0 (R76). -/
theorem landing_eq (a : Addr) (k : Nat) : landing a k = 2 * k + if a.getLsbD k then 3 else 4 := by
  unfold landing; split <;> omega

/-- The parity of the half-bit where cell `k` lands is the bit (R76). -/
theorem landing_odd (a : Addr) (k : Nat) : decide (landing a k % 2 = 1) = a.getLsbD k := by
  rw [landing_eq]
  cases a.getLsbD k <;> simp

/-- The gap of cell `k` leads from its start to its landing (R79). -/
theorem cellStart_add_gapHalfBits (a : Addr) (k : Nat) : cellStart a k + gapHalfBits a k = landing a k := by
  obtain ⟨hlo, hhi⟩ := cellStart_bounds a k
  rw [gapHalfBits_eq, landing_eq]
  split <;> omega

/-- Each gap of the code is one that the state machine accepts at its cell's start (R76, R79). -/
theorem gapHalfBits_accepted (a : Addr) (k : Nat) :
    gapHalfBits a k = 1 ∧ cellStart a k % 2 = 0 ∨ gapHalfBits a k = 2 ∨
      gapHalfBits a k = 3 ∧ cellStart a k % 2 = 1 := by
  obtain ⟨hlo, hhi⟩ := cellStart_bounds a k
  rw [gapHalfBits_eq, landing_eq]
  split <;> omega

/-- The count at half-bit `n`: 13 is folded to 14 (R132). -/
def foldedCount (n : Nat) : Count :=
  if n = 13 then 14 else BitVec.ofNat 4 n

theorem foldCount_eq (s : State) : foldCount s = { s with halfBitCount := foldedCount s.halfBitCount.toNat } := by
  have folded : ∀ c : Count, foldedCount c.toNat = if c = 13 then 14 else c := by decide
  rw [folded]
  unfold foldCount
  split <;> simp_all

/-- The state machine in a frame of address `a` after the preamble and `k` cells: it stands at the end of the last cell,
and the accumulator holds bits 0 to `k - 1` of the address, shifted in over 0 (R123, R130). -/
def inFrame (a : Addr) (k : Nat) (last : Numfmt) (s : State) : State :=
  { s with halfBitCount := foldedCount (cellStart a k)
           bitAccumulator := a <<< (6 - k)
           lastPeakSign := last }

/-- The state that a Peak leaves when its row adds `n` half-bits (R126 to R128, R130 to R132). -/
theorem finalize_of_advance {pk : Peak} {s : State} {n : Nat} (hrow : runRow pk s = advance n s)
    (hle : s.halfBitCount.toNat + n ≤ 14) :
    finalize pk s = .next { s with
      halfBitCount := foldedCount (s.halfBitCount.toNat + n)
      bitAccumulator := BitVec.ofBool (decide ((s.halfBitCount.toNat + n) % 2 = 1)) ++
        s.bitAccumulator.extractLsb' 1 5
      lastPeakSign := pk.value } := by
  have hsum : (s.halfBitCount + BitVec.ofNat 4 n).toNat = s.halfBitCount.toNat + n := by
    rw [BitVec.toNat_add, BitVec.toNat_ofNat]
    omega
  rw [finalize, hrow, advance_next hle, andThen_next, execFsmPost, foldCount_eq]
  simp only [recordPeak, shiftIn, oddCount_eq, hsum]

/-- An alternating Peak in a frame advances by its gap when the count's parity allows the gap (R126 to R128). -/
theorem runRow_eq_advance {pk : Peak} {s : State} {n : Nat} (h0 : s.halfBitCount ≠ 0) (h14 : s.halfBitCount ≠ 14)
    (hsign : sign pk.value ≠ sign s.lastPeakSign) (hgap : gapClass pk.position = classOfHalfBits n)
    (hn : n = 1 ∧ s.halfBitCount.toNat % 2 = 0 ∨ n = 2 ∨ n = 3 ∧ s.halfBitCount.toNat % 2 = 1) :
    runRow pk s = advance n s := by
  have hT : condT s = false := (condT_eq_false s).mpr h14
  have hZ : condZ s = false := (condZ_eq_false s).mpr h0
  have hS : condS pk s = false := by simpa [condS] using hsign
  rw [runRow, hT, hZ, hS, hgap]
  rcases hn with ⟨rfl, hP⟩ | rfl | ⟨rfl, hP⟩
  · simp [classOfHalfBits, condP_iff, hP, execFsmHalf]
  · simp [classOfHalfBits, execFsmFull]
  · simp [classOfHalfBits, condP_iff, hP, execFsmLong]

/-- Bit `k` enters above the bits before it. -/
theorem shiftLeft_shift_in : ∀ (a : Addr), ∀ k < 6,
    BitVec.ofBool (a.getLsbD k) ++ (a <<< (6 - k)).extractLsb' 1 5 = a <<< (6 - (k + 1)) := by
  decide +kernel

/-- The Peak of cell `k` takes the frame from `k` cells to `k + 1` (R79, R140). -/
theorem finalize_inFrame {a : Addr} {k : Nat} {last : Numfmt} {pk : Peak} {s : State} (hk : k < 6)
    (hgap : gapClass pk.position = classOfHalfBits (gapHalfBits a k)) (hsign : sign pk.value ≠ sign last) :
    finalize pk (inFrame a k last s) = .next (inFrame a (k + 1) pk.value s) := by
  obtain ⟨hlo, hhi⟩ := cellStart_bounds a k
  have hcount : (inFrame a k last s).halfBitCount.toNat = cellStart a k := by
    simp only [inFrame, foldedCount]
    rw [if_neg (by omega), BitVec.toNat_ofNat, Nat.mod_eq_of_lt (by omega)]
  have hsum := cellStart_add_gapHalfBits a k
  have hland : landing a k ≤ 14 := by
    rw [landing_eq]
    split <;> omega
  have hrow : runRow pk (inFrame a k last s) = advance (gapHalfBits a k) (inFrame a k last s) := by
    refine runRow_eq_advance ?_ ?_ hsign hgap (by rw [hcount]; exact gapHalfBits_accepted a k)
    · intro h; rw [h] at hcount; change 0 = _ at hcount; omega
    · intro h; rw [h] at hcount; change 14 = _ at hcount; omega
  rw [finalize_of_advance hrow (by omega), hcount, hsum, landing_odd]
  simp only [inFrame, shiftLeft_shift_in a k hk, cellStart]

/-- A Peak with a normal gap opens the frame of any address (R123). -/
theorem finalize_preamble {pk : Peak} {s : State} (a : Addr) (h0 : s.halfBitCount = 0)
    (hgap : gapClass pk.position = .normal) : finalize pk s = .next (inFrame a 0 pk.value s) := by
  have hrow : runRow pk s = .next (startFrame s) := by
    simp [runRow, condT_iff, condZ_iff, h0, hgap, execFsmStart]
  have hshift : a <<< 6 = 0 := by bv_omega
  simp [finalize, hrow, execFsmPost, foldCount, recordPeak, startFrame, inFrame, cellStart, foldedCount, hshift]

/-- A Peak for the preamble and `n` alternating Peaks for the cells (R79). -/
theorem injectPeaks_inFrame {a : Addr} {s : State} {pk : Nat → Peak} (h0 : s.halfBitCount = 0)
    (hpre : gapClass (pk 0).position = .normal)
    (hgap : ∀ k < 6, gapClass (pk (k + 1)).position = classOfHalfBits (gapHalfBits a k))
    (hsign : ∀ k < 6, sign (pk (k + 1)).value ≠ sign (pk k).value) {n : Nat} (hn : n ≤ 6) :
    injectPeaks ((List.range (n + 1)).map pk) s = .next (inFrame a n (pk n).value s) := by
  induction n with
  | zero => simp [injectPeaks, finalize_preamble a h0 hpre]
  | succ k ih =>
    rw [List.range_succ, List.map_append, List.map_singleton, injectPeaks_concat, ih (by omega), andThen_next]
    exact finalize_inFrame hn (hgap k hn) (hsign k hn)

/-- After the sixth cell the state machine is in its terminal state with the whole address (R79). -/
theorem inFrame_six (a : Addr) (last : Numfmt) (s : State) :
    inFrame a 6 last s = { s with halfBitCount := 14, bitAccumulator := a, lastPeakSign := last } := by
  have hcount : foldedCount (cellStart a 6) = 14 := by
    rw [cellStart, landing_eq]
    cases a.getLsbD 5 <;> rfl
  simp [inFrame, hcount]

/-- Settles O54: the seven Peaks are the preamble's and one for each cell. -/
theorem everyFrameAssemblesItsAddress : Obligations.EveryFrameAssemblesItsAddress := by
  intro a s p v h0 hpre hgap hsign
  rw [← inFrame_six]
  exact injectPeaks_inFrame (pk := fun k => ⟨v k, p k⟩) h0 hpre hgap hsign le_rfl

end Sys2Proof.Machine
end

section
/-! Impulses at the detector (41_peak_detector.md R100 to R112): a train of impulses of one magnitude, at least two
ticks apart, hands each impulse but the last to the state machine as the Peak of its value and its gap. -/

namespace Sys2Proof.Machine

/-- A command sequence, then another (R58). -/
theorem run_append (is js : List Instr) (s : State) : run (is ++ js) s = andThen (run is s) (run js) := by
  induction is generalizing s with
  | nil => rfl
  | cons i rest ih => cases h : exec i s <;> simp [run, andThen, h, ih]

/-- A zero delta with nothing pending decays the maximum and counts the tick (R107 to R109). -/
theorem tick_zero_of_quiet {s : State} (hv : s.pkValid = false) (hmax : 0 ≤ s.maxPeakMagnitude) :
    tick 0 s = .next { s with
      maxPeakMagnitude := s.maxPeakMagnitude * (99 / 100), tickCnt := satInc s.tickCnt } := by
  have hm : max s.maxPeakMagnitude |0| = s.maxPeakMagnitude := by simpa using hmax
  rcases tick_cases 0 s with ⟨-, habove, -⟩ | ⟨-, -, h⟩ | ⟨hv', -⟩ | ⟨hv', -⟩
  · exact absurd rfl (ne_zero_of_above_threshold habove)
  · rw [h, hm]
  · exact absurd (hv.symm.trans hv') Bool.false_ne_true
  · exact absurd (hv.symm.trans hv') Bool.false_ne_true

/-- `n` quiet ticks (R85, R108, R109). -/
theorem run_waitTicks_of_quiet (n : Nat) {s : State} (hv : s.pkValid = false) (hmax : 0 ≤ s.maxPeakMagnitude) :
    run (waitTicks n) s = .next { s with
      maxPeakMagnitude := s.maxPeakMagnitude * (99 / 100) ^ n
      tickCnt := BitVec.ofNat 8 (min 255 (s.tickCnt.toNat + n)) } := by
  induction n generalizing s with
  | zero =>
    have : min 255 s.tickCnt.toNat = s.tickCnt.toNat := by omega
    simp [waitTicks, run, this]
  | succ n ih =>
    have hcount : min 255 ((satInc s.tickCnt).toNat + n) = min 255 (s.tickCnt.toNat + (n + 1)) := by
      rw [satInc_toNat]
      omega
    change andThen (tick 0 s) (run (waitTicks n)) = _
    rw [tick_zero_of_quiet hv hmax, andThen_next]
    refine (ih ?_ ?_).trans ?_
    · exact hv
    · exact mul_nonneg hmax (by norm_num)
    · rw [hcount, mul_assoc, ← pow_succ']

/-- The detector one tick after it opened the peak `pk`, which set the maximum; the other registers are those of `s`
(R101, R103, R108, R109). -/
def opened (pk : Peak) (s : State) : State :=
  { s with maxPeakMagnitude := |pk.value| * (99 / 100), pkValid := true, pkValue := pk.value,
           pkPos := pk.position, tickCnt := 1 }

/-- A delta other than 0 of at least the maximum opens a peak (R101, R103). -/
theorem tick_opens {d : Numfmt} {s : State} (hv : s.pkValid = false) (hd : d ≠ 0)
    (hmax : s.maxPeakMagnitude ≤ |d|) : tick d s = .next (opened ⟨d, s.tickCnt⟩ s) := by
  have hpos : 0 < |d| := abs_pos.mpr hd
  rcases tick_cases d s with ⟨-, -, h⟩ | ⟨-, hbelow, -⟩ | ⟨hv', -⟩ | ⟨hv', -⟩
  · rw [h, max_eq_right hmax]; rfl
  · rw [max_eq_right hmax] at hbelow
    linarith
  · exact absurd (hv.symm.trans hv') Bool.false_ne_true
  · exact absurd (hv.symm.trans hv') Bool.false_ne_true

/-- The advance sees nothing of the detector's registers. -/
theorem advance_opened (n : Nat) (pk : Peak) (s : State) :
    advance n (opened pk s) = andThen (advance n s) fun t => .next (opened pk t) := by
  rcases le_or_gt (s.halfBitCount.toNat + n) 14 with hle | hgt
  · rw [advance_next hle]
    exact advance_next hle
  · rw [advance_refused hgt]
    exact advance_refused hgt

/-- A row sees nothing of the detector's registers but the Peak (R110). -/
theorem runRow_opened (q pk : Peak) (s : State) :
    runRow q (opened pk s) = andThen (runRow q s) fun t => .next (opened pk t) := by
  have hT : condT (opened pk s) = condT s := rfl
  have hZ : condZ (opened pk s) = condZ s := rfl
  have hS : condS q (opened pk s) = condS q s := rfl
  have hP : condP (opened pk s) = condP s := rfl
  simp only [runRow, hT, hZ, hS, hP]
  cases condT s with
  | true => rfl
  | false =>
    cases condZ s with
    | true => simp only [Bool.false_eq_true, if_false, if_true]; split <;> rfl
    | false =>
      cases condS q s with
      | true => rfl
      | false =>
        cases gapClass q.position with
        | other => rfl
        | short =>
          cases condP s with
          | true => rfl
          | false => exact advance_opened 1 pk s
        | normal => exact advance_opened 2 pk s
        | long =>
          cases condP s with
          | true => exact advance_opened 3 pk s
          | false => rfl

/-- The state machine sees nothing of the detector's registers but the Peak (R110). -/
theorem finalize_opened {q pk : Peak} {s u : State} (h : finalize q s = .next u) :
    finalize q (opened pk s) = .next (opened pk u) := by
  obtain ⟨v, hv, hpost⟩ := andThen_eq_next.mp h
  cases hpost
  rw [finalize, runRow_opened, hv, andThen_next, andThen_next, execFsmPost, foldCount_eq, foldCount_eq]
  rfl

/-- The detector one tick later, the peak `pk` finalized and no new one opened (R106, R108, R109). -/
def handedOver (pk : Peak) (s : State) : State :=
  { opened pk s with maxPeakMagnitude := |pk.value| * (99 / 100) * (99 / 100), pkValid := false, tickCnt := 2 }

/-- The zero delta after an impulse hands the Peak over (R106, R112). -/
theorem tick_zero_of_opened {pk : Peak} {s u : State} (h : finalize pk s = .next u) :
    tick 0 (opened pk s) = .next (handedOver pk u) := by
  have hm : max (opened pk s).maxPeakMagnitude |0| = (opened pk s).maxPeakMagnitude := by
    rw [abs_zero]
    exact max_eq_left (by unfold opened; positivity)
  rcases tick_cases 0 (opened pk s) with ⟨hv, -⟩ | ⟨hv, -⟩ | ⟨-, habove, -⟩ | ⟨-, -, ht⟩
  · cases hv
  · cases hv
  · exact absurd rfl (ne_zero_of_above_threshold habove)
  · rw [ht, hm]
    change andThen (finalize pk (opened pk s)) _ = _
    rw [finalize_opened h]
    rfl

/-- An impulse `g` ticks after one of its magnitude hands the Peak before it to the state machine and opens its own,
whose position is the gap (R85, R103, R112). -/
theorem run_impulse {pk : Peak} {w : Numfmt} {g : Nat} {s u : State} (hw : w ≠ 0) (habs : |pk.value| = |w|)
    (hg : 2 ≤ g) (hg' : g ≤ 255) (h : finalize pk s = .next u) :
    run (impulse w g) (opened pk s) = .next (opened ⟨w, BitVec.ofNat 8 g⟩ u) := by
  obtain ⟨n, rfl⟩ : ∃ n, g = n + 2 := ⟨g - 2, by omega⟩
  have hmax2 : 0 ≤ |pk.value| * (99 / 100) * (99 / 100) := by positivity
  change andThen (tick 0 (opened pk s)) (run (waitTicks n ++ [.tickD w])) = _
  rw [tick_zero_of_opened h, andThen_next, run_append, run_waitTicks_of_quiet n rfl hmax2, andThen_next]
  have hcount : min 255 (2 + n) = n + 2 := by omega
  have hdecay : |pk.value| * (99 / 100) * (99 / 100) * (99 / 100) ^ n ≤ |w| := by
    rw [habs, mul_assoc, mul_assoc, ← pow_succ', ← pow_succ']
    exact mul_le_of_le_one_right (abs_nonneg w) (pow_le_one₀ (by norm_num) (by norm_num))
  refine andThen_eq_next.mpr ⟨_, tick_opens rfl hw hdecay, ?_⟩
  change Host.Outcome.next (opened ⟨w, BitVec.ofNat 8 (min 255 (2 + n))⟩ u) = _
  rw [hcount]

/-- A train of impulses of one magnitude, `gap j` being the ticks between impulse `j - 1` and impulse `j`: while impulse
`n` is pending, the state machine has had the Peaks of those before it. -/
theorem run_impulse_train {val : Nat → Numfmt} {gap : Nat → Nat} {s u : State} {n : Nat} (h0 : val 0 ≠ 0)
    (habs : ∀ j, |val j| = |val 0|) (hgap : ∀ j < n, 2 ≤ gap (j + 1) ∧ gap (j + 1) ≤ 255)
    (h : injectPeaks ((List.range n).map fun j => ⟨val j, BitVec.ofNat 8 (gap j)⟩) s = .next u) :
    run ((List.range n).flatMap fun j => impulse (val (j + 1)) (gap (j + 1)))
      (opened ⟨val 0, BitVec.ofNat 8 (gap 0)⟩ s) = .next (opened ⟨val n, BitVec.ofNat 8 (gap n)⟩ u) := by
  induction n generalizing u with
  | zero => cases h; rfl
  | succ n ih =>
    rw [List.range_succ, List.map_append, List.map_singleton, injectPeaks_concat] at h
    obtain ⟨t, ht, hu⟩ := andThen_eq_next.mp h
    have hw : val (n + 1) ≠ 0 := by rw [← abs_pos, habs]; exact abs_pos.mpr h0
    obtain ⟨hlo, hhi⟩ := hgap n n.lt_succ_self
    rw [List.range_succ, List.flatMap_append, List.flatMap_singleton, run_append,
      ih (fun j hj => hgap j (by omega)) ht, andThen_next]
    exact run_impulse hw ((habs n).trans (habs (n + 1)).symm) hlo hhi hu

end Sys2Proof.Machine
end

section
/-! The line code at the command port (30_encoding.md R79, R85): `RESET` and the frame of an address. -/

namespace Sys2Proof.Machine

/-- The value of impulse `j` of `FRAME a, v` (R85). Impulse 0 is the reference for the gaps, impulse 1 ends the preamble
and impulse `k + 2` is that of cell `k`. -/
def frameValue (v : Numfmt) (j : Nat) : Numfmt :=
  if j % 2 = 0 then v else -v

/-- The ticks between impulse `j - 1` of the frame and impulse `j` (R79, R85). -/
def frameGap (a : Addr) : Nat → Nat
  | 0 => 0
  | 1 => 10
  | k + 2 => 5 * gapHalfBits a k

/-- The frame is a train of impulses and one tick. -/
theorem frame_eq (a : Addr) (v : Numfmt) : frame a v =
    .tickD v :: ((List.range 7).flatMap fun j => impulse (frameValue v (j + 1)) (frameGap a (j + 1))) ++
      waitTicks 1 := by
  simp [frame, cellImpulse, frameValue, frameGap, List.range_succ]

/-- A gap of the code is 1, 2 or 3 half-bits (R79). -/
theorem gapHalfBits_bounds (a : Addr) (k : Nat) : 1 ≤ gapHalfBits a k ∧ gapHalfBits a k ≤ 3 := by
  have := gapHalfBits_accepted a k
  omega

/-- Five ticks a half-bit: the middle of each window (R74, R79). -/
theorem gapClass_five_mul : ∀ n < 4, 1 ≤ n → gapClass (BitVec.ofNat 8 (5 * n)) = classOfHalfBits n := by
  decide

/-- The polarity alternates (R79). -/
theorem sign_frameValue_succ {v : Numfmt} (hv : 0 < v) (j : Nat) :
    sign (frameValue v (j + 1)) ≠ sign (frameValue v j) := by
  have hpos : sign v = .pos := sign_eq_pos.mpr hv
  have hneg : sign (-v) = .neg := sign_eq_neg.mpr (neg_lt_zero.mpr hv)
  rcases Nat.mod_two_eq_zero_or_one j with h | h
  · simp [frameValue, h, Nat.succ_mod_two_eq_one_iff.mpr h, hpos, hneg]
  · simp [frameValue, h, Nat.succ_mod_two_eq_zero_iff.mpr h, hpos, hneg]

/-- While idle, a Peak without the preamble's gap is only recorded (R124, R131). -/
theorem finalize_noise {pk : Peak} {s : State} (h0 : s.halfBitCount = 0) (hgap : gapClass pk.position ≠ .normal) :
    finalize pk s = .next { s with lastPeakSign := pk.value } := by
  have hrow : runRow pk s = .next s := by simp [runRow, condT_iff, condZ_iff, h0, hgap, execFsmNoise]
  simp [finalize, hrow, execFsmPost, foldCount, recordPeak, h0]

/-- The Peak of impulse `j` of the frame. -/
def framePeak (a : Addr) (v : Numfmt) (j : Nat) : Peak :=
  ⟨frameValue v j, BitVec.ofNat 8 (frameGap a j)⟩

theorem gapClass_framePeak {a : Addr} {v : Numfmt} (k : Nat) :
    gapClass (framePeak a v (k + 2)).position = classOfHalfBits (gapHalfBits a k) :=
  gapClass_five_mul _ (Nat.lt_succ_of_le (gapHalfBits_bounds a k).2) (gapHalfBits_bounds a k).1

/-- The Peaks of the frame, up to the one of cell `n - 1`, at an idle state machine: the first is noise. -/
theorem injectPeaks_framePeak (a : Addr) {v : Numfmt} (hv : 0 < v) {s : State} (h0 : s.halfBitCount = 0) {n : Nat}
    (hn : n ≤ 6) :
    injectPeaks ((List.range (n + 2)).map (framePeak a v)) s = .next (inFrame a n (frameValue v (n + 1)) s) := by
  have hnoise : finalize (framePeak a v 0) s = .next { s with lastPeakSign := v } :=
    finalize_noise h0 (show gapClass 0 ≠ .normal by decide)
  rw [List.range_succ_eq_map, List.map_cons, List.map_map, injectPeaks, hnoise, andThen_next]
  exact injectPeaks_inFrame (pk := framePeak a v ∘ Nat.succ) (s := { s with lastPeakSign := v }) h0 rfl
    (fun k _ => gapClass_framePeak k) (fun k _ => sign_frameValue_succ hv (k + 1)) hn

/-- After `RESET` and all of the frame's impulses the last one is pending, and the state machine stands at the end of
cell 4. -/
theorem run_reset_impulses (a : Addr) {v : Numfmt} (hv : 0 < v) (s : State) :
    run (.reset :: .tickD v :: (List.range 7).flatMap fun j => impulse (frameValue v (j + 1)) (frameGap a (j + 1))) s =
      .next (opened (framePeak a v 7) (inFrame a 5 (frameValue v 6) { State.reset with input := s.input })) := by
  have hfirst : tick v { State.reset with input := s.input } =
      .next (opened (framePeak a v 0) { State.reset with input := s.input }) :=
    tick_opens rfl hv.ne' (abs_nonneg v)
  have habs : ∀ j, |frameValue v j| = |v| := by
    intro j
    unfold frameValue
    split
    · rfl
    · exact abs_neg v
  have hgap : ∀ j < 7, 2 ≤ frameGap a (j + 1) ∧ frameGap a (j + 1) ≤ 255 := by
    intro j _
    cases j with
    | zero => exact show 2 ≤ 10 ∧ 10 ≤ 255 by decide
    | succ k =>
      obtain ⟨hlo, hhi⟩ := gapHalfBits_bounds a k
      simp only [frameGap]
      omega
  change andThen (tick v { State.reset with input := s.input }) _ = _
  rw [hfirst, andThen_next]
  exact run_impulse_train hv.ne' habs hgap (injectPeaks_framePeak a hv rfl (by decide))

/-- `RESET` and the whole frame: the last tick hands over the Peak of cell 5. -/
theorem run_reset_frame (a : Addr) {v : Numfmt} (hv : 0 < v) (s : State) :
    run (.reset :: frame a v) s = .next
      (handedOver (framePeak a v 7) (inFrame a 6 (frameValue v 7) { State.reset with input := s.input })) := by
  rw [frame_eq, ← List.cons_append, run_append, run_reset_impulses a hv s, andThen_next]
  refine andThen_eq_next.mpr ⟨_, tick_zero_of_opened ?_, rfl⟩
  exact finalize_inFrame (by decide) (gapClass_framePeak 5) (sign_frameValue_succ hv 6)

/-- In the terminal state the accumulator is the address (R133, R135). -/
theorem validAddress_of_terminal {s : State} (h : s.halfBitCount = 14) : validAddress s = some s.bitAccumulator := by
  have hdone : done s = 1 := congrArg BitVec.ofBool (decide_eq_true h)
  rw [validAddress, hdone]
  rfl

/-- In the terminal state progress is 100 (R134). -/
theorem progressPercent_of_terminal {s : State} (h : s.halfBitCount = 14) : progressPercent s = 100 := by
  rw [progressPercent, h]
  decide

/-- Before the terminal state no address is valid (R133, R186). -/
theorem validAddress_of_ne {s : State} (h : s.halfBitCount ≠ 14) : validAddress s = none := by
  have hdone : done s = 0 := congrArg BitVec.ofBool (decide_eq_false h)
  rw [validAddress, hdone]
  rfl

/-- In cell 5 the terminal state is not reached yet (R140). -/
theorem foldedCount_cellStart_five (a : Addr) : foldedCount (cellStart a 5) ≠ 14 := by
  rw [cellStart, landing_eq]
  cases a.getLsbD 4 <;> decide

/-- Settles O55: the impulses end in the fifth cell with the last Peak pending, where no address is valid, and the last
tick hands that Peak over. -/
theorem frameOfEveryAddressIsDecoded : Obligations.FrameOfEveryAddressIsDecoded := by
  intro a v s hv
  constructor
  · refine ⟨_, run_reset_frame a hv s, ?_⟩
    rw [inFrame_six]
    exact ⟨validAddress_of_terminal rfl, progressPercent_of_terminal rfl⟩
  · rw [frame_eq, show waitTicks 1 = [.tickD 0] from rfl, List.dropLast_concat]
    exact ⟨_, run_reset_impulses a hv s, validAddress_of_ne (foldedCount_cellStart_five a)⟩

end Sys2Proof.Machine
end

section
/-! The signal preprocessor (40_preprocessor.md): what each operation writes, that only `TICK_S` writes its registers
while a tick of the detector does not, and the telescoping of the filter's sum. -/

namespace Sys2Proof.Machine

/-- A tick of the detector writes none of the preprocessor's registers (R95): none of the four outcomes of a tick names
one. -/
theorem tick_keeps_preprocessor {d : Numfmt} {s t : State} (h : tick d s = .next t) :
    t.prevValid = s.prevValid ∧ t.prevSample = s.prevSample ∧
    t.dbuf0 = s.dbuf0 ∧ t.dbuf1 = s.dbuf1 ∧ t.dbuf2 = s.dbuf2 := by
  rcases tick_next_cases h with ⟨-, -, rfl⟩ | ⟨-, -, rfl⟩ | ⟨-, -, rfl⟩ | ⟨-, u, -, rfl⟩ <;>
    exact ⟨rfl, rfl, rfl, rfl, rfl⟩

/-- What `TICK_S` leaves in the preprocessor's registers once a sample has been taken (R91, R93, R154). -/
theorem tickS_preprocessor {x : Numfmt} {s t : State} (hv : s.prevValid = true) (h : exec (.tickS x) s = .next t) :
    t.prevValid = true ∧ t.prevSample = x ∧
    t.dbuf0 = s.dbuf1 ∧ t.dbuf1 = s.dbuf2 ∧ t.dbuf2 = x - s.prevSample := by
  have htick := (execTickS_eq x s).symm.trans h
  rw [if_pos hv] at htick
  exact tick_keeps_preprocessor htick

/-- A run that completes, by its first command (R58). -/
theorem run_cons_eq_next {i : Instr} {rest : List Instr} {s t : State} :
    run (i :: rest) s = .next t ↔ ∃ u, exec i s = .next u ∧ run rest u = .next t :=
  andThen_eq_next

/-- Three samples after a first one replace the whole buffer: it holds their three differences (R91, R93). -/
theorem run_three_samples_preprocessor {a b c : Numfmt} {s t : State} (hv : s.prevValid = true)
    (h : run [.tickS a, .tickS b, .tickS c] s = .next t) :
    t.prevValid = true ∧ t.prevSample = c ∧
    t.dbuf0 = a - s.prevSample ∧ t.dbuf1 = b - a ∧ t.dbuf2 = c - b := by
  obtain ⟨s₁, ha, h⟩ := run_cons_eq_next.mp h
  obtain ⟨s₂, hb, h⟩ := run_cons_eq_next.mp h
  obtain ⟨s₃, hc, h⟩ := run_cons_eq_next.mp h
  cases h
  obtain ⟨hv₁, hp₁, -, -, hd₁⟩ := tickS_preprocessor hv ha
  obtain ⟨hv₂, hp₂, -, hd₁', hd₂⟩ := tickS_preprocessor hv₁ hb
  obtain ⟨hv₃, hp₃, hd₁'', hd₂', hd₃⟩ := tickS_preprocessor hv₂ hc
  exact ⟨hv₃, hp₃, by rw [hd₁'', hd₁', hd₁], by rw [hd₂', hd₂, hp₁], by rw [hd₃, hp₂]⟩

/-- Settles O15: the buffer holds the differences of the last three samples, and their sum with the new one
telescopes. -/
theorem filteredDeltaTelescopes : Obligations.FilteredDeltaTelescopes := by
  intro s t a b c x hv hrun
  obtain ⟨hvt, hprev, h0, h1, h2⟩ := run_three_samples_preprocessor hv hrun
  rw [runPreDelta_eq, runPreFilter_eq, if_pos hvt]
  show (x - t.prevSample + t.dbuf0 + t.dbuf1 + t.dbuf2) / 4 = (x - s.prevSample) / 4
  rw [hprev, h0, h1, h2]
  ring

/-- Settles O16: `TICK_D` is one tick of the detector. -/
theorem tickDLeavesThePreprocessor : Obligations.TickDLeavesThePreprocessor :=
  fun _ _ _ => tick_keeps_preprocessor

/-- Settles O12: `PRE_DELTA` is the state part of `runPreDelta`, and the raw delta its other part. -/
theorem preDeltaTakesTheSample : Obligations.PreDeltaTakesTheSample :=
  fun x s => ⟨rfl, congrArg Prod.fst (runPreDelta_eq x s)⟩

/-- Settles O13: `PRE_FILTER` is the state part of `runPreFilter`, and the filtered delta its other part. -/
theorem preFilterIsTheMeanOfFour : Obligations.PreFilterIsTheMeanOfFour :=
  fun raw s => ⟨rfl, congrArg Prod.fst (runPreFilter_eq raw s)⟩

/-- Settles O14: the rule's pseudocode is the model's record update. -/
theorem preShiftDropsTheOldest : Obligations.PreShiftDropsTheOldest :=
  fun _ _ => rfl

end Sys2Proof.Machine
end

section
/-! What the state machine reads and writes (41_peak_detector.md R110): a row sees the count, the accumulator and
whether the Peak's sign is the last one's, and it moves the framing registers alike wherever it sees the same. -/

namespace Sys2Proof.Machine

/-- `u` with the count and the accumulator of `t`: the registers that a row may write (R122 to R129). -/
def withFrameOf (t u : State) : State :=
  { u with halfBitCount := t.halfBitCount, bitAccumulator := t.bitAccumulator }

/-- `f` depends on the count and the accumulator only, and writes nothing else. -/
def FrameOnly (f : State → Result) : Prop :=
  ∀ s u : State, u.halfBitCount = s.halfBitCount → u.bitAccumulator = s.bitAccumulator →
    f u = andThen (f s) fun t => .next (withFrameOf t u)

theorem frameOnly_next : FrameOnly .next := by
  intro s u hc ha
  simp [withFrameOf, ← hc, ← ha]

theorem frameOnly_startFrame : FrameOnly fun s => .next (startFrame s) :=
  fun _ _ _ _ => rfl

theorem frameOnly_invalidateFraming : FrameOnly fun s => .next (invalidateFraming s) := by
  intro s u _ ha
  simp [withFrameOf, invalidateFraming, ← ha]

theorem frameOnly_advance (n : Nat) : FrameOnly (advance n) := by
  intro s u hc ha
  rcases le_or_gt (s.halfBitCount.toNat + n) 14 with hle | hgt
  · rw [advance_next hle, advance_next (hc ▸ hle)]
    simp [withFrameOf, shiftIn, hc, ha]
  · rw [advance_refused hgt, advance_refused (hc ▸ hgt)]
    rfl

/-- Two Peaks with one position, each with the same answer to whether its sign is the last one's, select one row, and
the row moves the frame alike. -/
theorem runRow_of_same_frame {pk qk : Peak} {s u : State} (hpos : qk.position = pk.position)
    (hsign : condS qk u = condS pk s) (hc : u.halfBitCount = s.halfBitCount)
    (ha : u.bitAccumulator = s.bitAccumulator) :
    runRow qk u = andThen (runRow pk s) fun t => .next (withFrameOf t u) := by
  have hT : condT u = condT s := by rw [condT, hc, condT]
  have hZ : condZ u = condZ s := by rw [condZ, hc, condZ]
  have hP : condP u = condP s := by rw [condP, hc, condP]
  rw [runRow, runRow, hT, hZ, hP, hsign, hpos]
  split_ifs
  · rw [runTerminal_eq, runTerminal_eq]; exact frameOnly_next s u hc ha
  · exact frameOnly_startFrame s u hc ha
  · exact frameOnly_next s u hc ha
  · exact frameOnly_invalidateFraming s u hc ha
  · cases gapClass pk.position with
    | short => exact frameOnly_invalidateFraming s u hc ha
    | normal => exact frameOnly_advance 2 s u hc ha
    | long => exact frameOnly_advance 3 s u hc ha
    | other => exact frameOnly_invalidateFraming s u hc ha
  · cases gapClass pk.position with
    | short => exact frameOnly_advance 1 s u hc ha
    | normal => exact frameOnly_advance 2 s u hc ha
    | long => exact frameOnly_invalidateFraming s u hc ha
    | other => exact frameOnly_invalidateFraming s u hc ha

/-- The same of a whole Peak: besides the frame it records its own value (R131). -/
theorem finalize_of_same_frame {pk qk : Peak} {s u : State} (hpos : qk.position = pk.position)
    (hsign : condS qk u = condS pk s) (hc : u.halfBitCount = s.halfBitCount)
    (ha : u.bitAccumulator = s.bitAccumulator) :
    finalize qk u = andThen (finalize pk s) fun t => .next { withFrameOf t u with lastPeakSign := qk.value } := by
  rw [finalize, finalize, runRow_of_same_frame hpos hsign hc ha]
  rcases result_cases (runRow pk s) with ⟨v, hv⟩ | ⟨e, he⟩
  · simp only [hv, andThen_next, execFsmPost, foldCount_eq]
    rfl
  · rw [he]; rfl

/-- From a count that a run can leave every Peak completes: the rows that advance are selected at counts of at most 12,
12 and 11 (R136). -/
theorem finalize_completes (pk : Peak) {s : State} (hs : LegalCount s.halfBitCount) :
    ∃ t, finalize pk s = .next t := by
  suffices hrow : ∃ t, runRow pk s = .next t by
    obtain ⟨t, ht⟩ := hrow
    exact ⟨_, andThen_eq_next.mpr ⟨t, ht, rfl⟩⟩
  have bound : ∀ c : Count, LegalCount c → c ≠ 14 → c.toNat ≤ 12 := by decide
  rcases runRow_cases pk s with ⟨hr, -⟩ | ⟨hr, -⟩ | ⟨h14, -, hr | ⟨-, ⟨hr, -⟩ | ⟨hr, -⟩ | ⟨hr, -, hodd⟩⟩⟩
  · exact ⟨_, hr⟩
  · exact ⟨_, hr⟩
  · exact ⟨_, hr⟩
  all_goals have hle := bound _ hs h14
  · exact ⟨_, hr.trans (advance_next (by omega))⟩
  · exact ⟨_, hr.trans (advance_next (by omega))⟩
  · exact ⟨_, hr.trans (advance_next (by omega))⟩

/-- Settles O22: the Peak sees the same frame in both states, and records its value in both. -/
theorem finalizeTouchesOnlyFraming : Obligations.FinalizeTouchesOnlyFraming := by
  intro pk s t u h hc ha hlast
  have hsign : condS pk u = condS pk s := by rw [condS, hlast, condS]
  have hvalue : t.lastPeakSign = pk.value := by rw [finalize_frame h]
  rw [finalize_of_same_frame rfl hsign hc ha, h, hvalue]
  rfl

/-- Settles O21: both branches are one sequence, whose first part completes from such a count. -/
theorem finalBranchesHandOverAndClear : Obligations.FinalBranchesHandOverAndClear := by
  intro d s hs
  obtain ⟨t, ht⟩ := finalize_completes (pendingPeak s) hs
  exact ⟨t, ht, andThen_eq_next.mpr ⟨t, ht, rfl⟩, andThen_eq_next.mpr ⟨t, ht, rfl⟩⟩

end Sys2Proof.Machine
end

section
/-! Scaling (41_peak_detector.md R114): each part of a command takes related states to related results. -/

namespace Sys2Proof.Machine

/-- Two results related as R114 relates states, or one refusal on both sides (log entry 5). -/
inductive ScaledResults (c b : Numfmt) : Result → Result → Prop where
  | next {s t : State} (h : Scaled c b s t) : ScaledResults c b (.next s) (.next t)
  | refused (e : Refusal) : ScaledResults c b (.refused e) (.refused e)

/-- Parts that keep the relation are sequenced to one that keeps it. -/
theorem ScaledResults.andThen {c b : Numfmt} {r r' : Result} {f g : State → Result} (h : ScaledResults c b r r')
    (hfg : ∀ s t, Scaled c b s t → ScaledResults c b (f s) (g t)) :
    ScaledResults c b (Machine.andThen r f) (Machine.andThen r' g) := by
  cases h with
  | next h => exact hfg _ _ h
  | refused e => exact .refused e

/-- The ports show the registers that scaling leaves (R114). -/
theorem Scaled.outputs_eq {c b : Numfmt} {s t : State} (h : Scaled c b s t) : outputs s = outputs t := by
  simp only [outputs, decodedAddress, progressPercent, done, hbcOut, h.halfBitCount, h.bitAccumulator]

/-- What related results are, the ports included. -/
theorem ScaledResults.next_or_refused {c b : Numfmt} {r r' : Result} (h : ScaledResults c b r r') :
    (∃ s t, r = .next s ∧ r' = .next t ∧ Scaled c b s t ∧ outputs s = outputs t) ∨
    (∃ e, r = .refused e ∧ r' = .refused e) := by
  cases h with
  | next h => exact .inl ⟨_, _, rfl, rfl, h, h.outputs_eq⟩
  | refused e => exact .inr ⟨e, rfl, rfl⟩

section
variable {c b : Numfmt} {s t : State}

/-- `A` compares two values that are scaled alike (R114). -/
theorem Scaled.condA_eq (hc : c ≠ 0) (h : Scaled c b s t) (d : Numfmt) : condA (c * d) t = condA d s := by
  rw [Bool.eq_iff_iff, condA_iff, condA_iff, h.maxPeakMagnitude, magnitude_eq_abs, abs_mul, mul_div_assoc,
    mul_lt_mul_iff_right₀ (abs_pos.mpr hc)]

/-- `M` compares signs and magnitudes that are scaled alike (R114). -/
theorem Scaled.condM_eq (hc : c ≠ 0) (h : Scaled c b s t) (d : Numfmt) : condM (c * d) t = condM d s := by
  rw [Bool.eq_iff_iff, condM_iff, condM_iff, h.pkValid, h.pkValue, sign_mul_eq_iff hc, abs_mul, abs_mul,
    mul_lt_mul_iff_right₀ (abs_pos.mpr hc)]

/-- `S` compares signs that are scaled alike (R114). -/
theorem Scaled.condS_pendingPeak_eq (hc : c ≠ 0) (h : Scaled c b s t) :
    condS (pendingPeak t) t = condS (pendingPeak s) s := by
  rw [Bool.eq_iff_iff, condS_iff, condS_iff, pendingPeak_value, pendingPeak_value, h.pkValue, h.lastPeakSign,
    sign_mul_eq_iff hc]

theorem scaled_pdTrack (h : Scaled c b s t) (d : Numfmt) :
    ScaledResults c b (execPdTrack d s) (execPdTrack (c * d) t) := by
  rw [execPdTrack_eq, execPdTrack_eq]
  refine .next { h with maxPeakMagnitude := ?_ }
  show max t.maxPeakMagnitude |c * d| = magnitude c * max s.maxPeakMagnitude |d|
  rw [h.maxPeakMagnitude, magnitude_eq_abs, abs_mul, mul_max_of_nonneg _ _ (abs_nonneg c)]

theorem scaled_pdStart (h : Scaled c b s t) (d : Numfmt) :
    ScaledResults c b (execPdStart d s) (execPdStart (c * d) t) :=
  .next { h with pkValid := rfl, pkValue := rfl, pkPos := h.tickCnt, tickCnt := rfl }

theorem scaled_pdMerge (h : Scaled c b s t) (d : Numfmt) :
    ScaledResults c b (execPdMerge d s) (execPdMerge (c * d) t) :=
  .next { h with pkValue := rfl, pkPos := congrArg satInc h.pkPos, tickCnt := rfl }

theorem scaled_finalize (hc : c ≠ 0) (h : Scaled c b s t) :
    ScaledResults c b (finalize (pendingPeak s) s) (finalize (pendingPeak t) t) := by
  rw [finalize_of_same_frame h.pkPos (h.condS_pendingPeak_eq hc) h.halfBitCount h.bitAccumulator]
  rcases result_cases (finalize (pendingPeak s) s) with ⟨u, hu⟩ | ⟨e, he⟩
  · rw [hu, finalize_frame hu]
    exact .next { h with halfBitCount := rfl, bitAccumulator := rfl, lastPeakSign := h.pkValue }
  · rw [he]
    exact .refused e

/-- Both finalizing branches (R105, R106). -/
theorem scaled_finalBranch (hc : c ≠ 0) (h : Scaled c b s t) :
    ScaledResults c b (execPdFinalBelow s) (execPdFinalBelow t) :=
  (scaled_finalize hc h).andThen fun _ _ h => .next { h with pkValid := rfl }

theorem scaled_runBranch (hc : c ≠ 0) (h : Scaled c b s t) (d : Numfmt) :
    ScaledResults c b (runBranch d s) (runBranch (c * d) t) := by
  rw [runBranch_eq, runBranch_eq, h.condA_eq hc, h.condM_eq hc, condV, condV, h.pkValid]
  split_ifs
  · exact scaled_pdMerge h d
  · exact scaled_finalBranch hc h
  · exact scaled_pdStart h d
  · exact scaled_finalBranch hc h
  · exact .next h

theorem scaled_pdCount (h : Scaled c b s t) : ScaledResults c b (execPdCount s) (execPdCount t) :=
  .next { h with tickCnt := congrArg satInc h.tickCnt }

theorem scaled_pdDecay (h : Scaled c b s t) : ScaledResults c b (execPdDecay s) (execPdDecay t) := by
  refine .next { h with maxPeakMagnitude := ?_ }
  show t.maxPeakMagnitude * (99 / 100) = magnitude c * (s.maxPeakMagnitude * (99 / 100))
  rw [h.maxPeakMagnitude, mul_assoc]

/-- A tick in the order of R100, part by part. -/
theorem scaled_tick (hc : c ≠ 0) (h : Scaled c b s t) (d : Numfmt) :
    ScaledResults c b (tick d s) (tick (c * d) t) := by
  rw [tick_def, tick_def]
  exact (((scaled_pdTrack h d).andThen fun _ _ h => scaled_runBranch hc h d).andThen
    fun _ _ h => scaled_pdCount h).andThen fun _ _ h => scaled_pdDecay h

/-- The raw delta is a difference of samples, from which the offset drops out, or 0 (R91). -/
theorem scaled_rawDelta (h : Scaled c b s t) (x : Numfmt) :
    (if t.prevValid then c * x + b - t.prevSample else 0) = c * if s.prevValid then x - s.prevSample else 0 := by
  rw [h.prevValid]
  split_ifs with hv
  · rw [h.prevSample hv]; ring
  · rw [mul_zero]

/-- `TICK_S`: the filter is linear, so the delta is scaled like the raw delta and the buffer (R92, R93). -/
theorem scaled_tickS (hc : c ≠ 0) (h : Scaled c b s t) (x : Numfmt) :
    ScaledResults c b (execTickS x s) (execTickS (c * x + b) t) := by
  rw [execTickS_eq, execTickS_eq]
  simp only [scaled_rawDelta h x, h.dbuf0, h.dbuf1, h.dbuf2, ← mul_add, mul_div_assoc]
  refine scaled_tick hc ?_ _
  exact { h with prevValid := rfl, prevSample := fun _ => rfl, dbuf0 := rfl, dbuf1 := rfl, dbuf2 := rfl }

/-- Related commands keep the relation (R114). -/
theorem scaled_exec (hc : c ≠ 0) (h : Scaled c b s t) {i j : Instr} (hij : ScaledCommand c b i j) :
    ScaledResults c b (exec i s) (exec j t) := by
  cases hij with
  | reset =>
    have hzero : (0 : Numfmt) = c * 0 := (mul_zero c).symm
    exact .next ⟨rfl, nofun, hzero, hzero, hzero, (mul_zero _).symm, rfl, hzero, rfl, rfl, rfl, rfl, hzero⟩
  | nop => exact .next h
  | clear => exact .next { h with halfBitCount := rfl }
  | tickS x => exact scaled_tickS hc h x
  | tickD d => exact scaled_tick hc h d

end

/-- Settles O30: each command takes related states to related results, part by part. -/
theorem scalingChangesNoDecision : Obligations.ScalingChangesNoDecision := by
  intro c b s t i j hc hst hij
  exact (scaled_exec hc hst hij).next_or_refused

end Sys2Proof.Machine
end

section
/-! The age of a pending peak and the gap between peaks (41_peak_detector.md R112, R115). -/

namespace Sys2Proof.Machine

/-- With a peak pending the gap is its position. -/
theorem gapAtLeastTwo_of_pending {s : State} (hv : s.pkValid = true) :
    GapAtLeastTwo s ↔ s.tickCnt = 1 ∧ (s.lastPeakSign ≠ 0 → 2 ≤ s.pkPos.toNat) := by
  simp [GapAtLeastTwo, hv]

/-- With none pending the gap is still being counted. -/
theorem gapAtLeastTwo_of_none_pending {s : State} (hv : s.pkValid = false) :
    GapAtLeastTwo s ↔ (s.lastPeakSign ≠ 0 → 2 ≤ s.tickCnt.toNat) := by
  simp [GapAtLeastTwo, hv]

/-- A counter that has reached 2 stays there. -/
theorem two_le_satInc {p : Ticks} (h : 2 ≤ p.toNat) : 2 ≤ (satInc p).toNat := by
  rw [satInc_toNat]
  omega

/-- A tick keeps the gap: a peak takes its position from a counter that has reached 2, and the tick that finalizes it,
one after it was written, carries the counter from 1 to 2. -/
theorem tick_keeps_gapAtLeastTwo {d : Numfmt} {s t : State} (h : tick d s = .next t) (hs : GapAtLeastTwo s) :
    GapAtLeastTwo t := by
  rcases tick_next_cases h with ⟨hv, -, rfl⟩ | ⟨hv, -, rfl⟩ | ⟨hv, -, rfl⟩ | ⟨hv, u, -, rfl⟩
  · have hgap := (gapAtLeastTwo_of_none_pending hv).mp hs
    exact (gapAtLeastTwo_of_pending rfl).mpr ⟨rfl, hgap⟩
  · have hgap := (gapAtLeastTwo_of_none_pending hv).mp hs
    refine (gapAtLeastTwo_of_none_pending ?_).mpr fun hlast => two_le_satInc (hgap hlast)
    exact hv
  · obtain ⟨-, hgap⟩ := (gapAtLeastTwo_of_pending hv).mp hs
    refine (gapAtLeastTwo_of_pending ?_).mpr ⟨rfl, fun hlast => two_le_satInc (hgap hlast)⟩
    exact hv
  · obtain ⟨hage, -⟩ := (gapAtLeastTwo_of_pending hv).mp hs
    have htwo : 2 ≤ (satInc 1).toNat := by decide
    exact (gapAtLeastTwo_of_none_pending rfl).mpr fun _ => hage ▸ htwo

/-- Settles O31: `RESET` forgets both the pending peak and the last one, `CLEAR` touches neither, and a tick keeps the
gap. -/
theorem stepKeepsGapAtLeastTwo : Obligations.StepKeepsGapAtLeastTwo := by
  intro s t hs hgap h
  obtain ⟨-, -, -, hin⟩ := hs
  obtain ⟨rest, -, rfl | rfl | rfl | ⟨d, pv, ps, b0, b1, b2, htick⟩⟩ := step_command_cases hin h
  · exact hgap
  · exact ⟨nofun, fun hlast => absurd rfl hlast⟩
  · exact hgap
  · exact tick_keeps_gapAtLeastTwo htick hgap

end Sys2Proof.Machine
end

section
/-! The operations of the detector and the branch that its conditions select (41_peak_detector.md R101 to R109). -/

namespace Sys2Proof.Machine

/-- A delta is above the threshold of its own tick when it is not 0 and above that of the maximum before (R101). -/
theorem above_threshold_iff (m d : Numfmt) : max m |d| / 2 < |d| ↔ d ≠ 0 ∧ m / 2 < |d| := by
  rw [← max_div_div_right (by norm_num), max_lt_iff, half_lt_self_iff, abs_pos, and_comm]

/-- The bit `V` of the PD word (R68). -/
theorem pdWord_getLsbD_one (d : Numfmt) (s : State) : (pdWord d s).getLsbD 1 = condV s := by
  have second : ∀ a v m, (BitVec.ofBool a ++ BitVec.ofBool v ++ BitVec.ofBool m).getLsbD 1 = v := by decide
  exact second _ _ _

/-- The bit `M` of the PD word (R68). -/
theorem pdWord_getLsbD_zero (d : Numfmt) (s : State) : (pdWord d s).getLsbD 0 = condM d s := by
  have third : ∀ a v m, (BitVec.ofBool a ++ BitVec.ofBool v ++ BitVec.ofBool m).getLsbD 0 = m := by decide
  exact third _ _ _

/-- Settles O6: the selection asks the three conditions that are the word's bits, and the word contradicts no delta. -/
theorem branchRunIsTheDecodedOne : Obligations.BranchRunIsTheDecodedOne := by
  intro d s hmax
  obtain ⟨-, -, hagrees, -⟩ := contradictoryWordsAreRejected
  refine ⟨_, pdWordSelectsItsBranch _ d fun hA hd => hagrees d s hmax ⟨hA, hd⟩, ?_⟩
  rw [runBranch_eq, pdWord_getLsbD_two, pdWord_getLsbD_one, pdWord_getLsbD_zero]
  split_ifs <;> rfl

/-- Settles O18: the maximum, its half, and the comparison with that half. -/
theorem pdTrackRaisesTheMaximum : Obligations.PdTrackRaisesTheMaximum := by
  intro d s
  refine ⟨_, execPdTrack_eq d s, rfl, ?_, ?_⟩
  · rw [threshold_eq, config_threshRatio, one_div_mul_eq_div]
  · rw [condA_iff]
    exact above_threshold_iff _ _

/-- Settles O19: the rule's pseudocode is the model's record update. -/
theorem pdStartOpensAPeak : Obligations.PdStartOpensAPeak :=
  fun _ _ => rfl

/-- Settles O20: the saturating increment in natural numbers. -/
theorem pdMergeMovesThePeak : Obligations.PdMergeMovesThePeak := by
  intro d s
  rw [← satInc_eq]
  rfl

/-- Settles O23: the rule has no statement. -/
theorem pdIdleChangesNothing : Obligations.PdIdleChangesNothing :=
  fun _ => rfl

/-- Settles O24: the saturating increment in natural numbers. -/
theorem pdCountSaturates : Obligations.PdCountSaturates := by
  intro s
  rw [← satInc_eq]
  rfl

/-- Settles O25: `PD_DECAY` in the reference format. -/
theorem pdDecayMultiplies : Obligations.PdDecayMultiplies :=
  execPdDecay_eq

end Sys2Proof.Machine
end

section
/-! Whole ticks of the detector (41_peak_detector.md R100, 43_commands.md R154, R155): an equation for each branch. -/

namespace Sys2Proof.Machine

section
variable {d m : Numfmt} {s : State}

/-- `A` on the state that `PD_TRACK` left, with its maximum `m` (R101). -/
theorem condA_tracked : condA d { s with maxPeakMagnitude := m } = true ↔ m / 2 < |d| :=
  condA_iff _ _

/-- `M` on the state that `PD_TRACK` left. -/
theorem condM_tracked : condM d { s with maxPeakMagnitude := m } = condM d s :=
  rfl

/-- A delta above the threshold with nothing pending opens a peak (R103). -/
theorem tick_of_start (hv : s.pkValid = false) (habove : max s.maxPeakMagnitude |d| / 2 < |d|) :
    tick d s = .next { s with
      maxPeakMagnitude := max s.maxPeakMagnitude |d| * (99 / 100), pkValid := true, pkValue := d,
      pkPos := s.tickCnt, tickCnt := 1 } := by
  rw [tick_eq, runBranch_eq, if_pos (condA_tracked.mpr habove), condV, if_neg (by simp [hv])]
  rfl

/-- A delta above the threshold that extends the pending peak moves it (R104). -/
theorem tick_of_merge (hv : s.pkValid = true) (habove : max s.maxPeakMagnitude |d| / 2 < |d|)
    (hsign : sign d = sign s.pkValue) (hlarger : |s.pkValue| < |d|) :
    tick d s = .next { s with
      maxPeakMagnitude := max s.maxPeakMagnitude |d| * (99 / 100), pkValue := d, pkPos := satInc s.pkPos,
      tickCnt := 1 } := by
  rw [tick_eq, runBranch_eq, if_pos (condA_tracked.mpr habove), condV, if_pos hv, condM_tracked,
    if_pos ((condM_iff _ _).mpr ⟨hv, hsign, hlarger⟩)]
  rfl

/-- A delta at or under the threshold with nothing pending finds nothing (R107). -/
theorem tick_of_idle (hv : s.pkValid = false) (hbelow : |d| ≤ max s.maxPeakMagnitude |d| / 2) :
    tick d s = .next { s with
      maxPeakMagnitude := max s.maxPeakMagnitude |d| * (99 / 100), tickCnt := satInc s.tickCnt } := by
  rw [tick_eq, runBranch_eq, if_neg fun h => not_lt.mpr hbelow (condA_tracked.mp h), condV, if_neg (by simp [hv])]
  rfl

end

/-- Settles O26: the three branches that finalize nothing, the increments in natural numbers. -/
theorem tickDWithoutFinalizing : Obligations.TickDWithoutFinalizing := by
  intro d s m
  simp only [← satInc_eq]
  exact ⟨tick_of_start, tick_of_merge, tick_of_idle⟩

/-- Settles O27: the pending peak is handed over after `PD_TRACK`, whose write the state machine does not see. -/
theorem tickDFinalizes : Obligations.TickDFinalizes := by
  intro d s hv hs hnot
  obtain ⟨t, ht⟩ := finalize_completes (pendingPeak s) hs
  refine ⟨t, ht, ?_⟩
  have htracked := finalizeTouchesOnlyFraming _ s t
    { s with maxPeakMagnitude := max s.maxPeakMagnitude |d| } ht rfl rfl rfl
  rw [← satInc_eq]
  rcases tick_cases d s with ⟨hv', -⟩ | ⟨hv', -⟩ | ⟨-, habove, hsign, hlarger, -⟩ | ⟨-, -, htick⟩
  · exact absurd (hv.symm.trans hv') (by decide)
  · exact absurd (hv.symm.trans hv') (by decide)
  · exact absurd ⟨habove, hsign, hlarger⟩ hnot
  · refine htick.trans ?_
    rw [htracked, finalize_frame ht]
    rfl

/-- A tick with nothing pending opens a peak or finds nothing; neither touches the frame (R103, R107). -/
theorem tick_keeps_framing_of_no_peak (d : Numfmt) {s : State} (hv : s.pkValid = false) :
    ∃ t, tick d s = .next t ∧ t.halfBitCount = s.halfBitCount ∧ t.bitAccumulator = s.bitAccumulator ∧
      t.lastPeakSign = s.lastPeakSign := by
  rcases lt_or_ge (max s.maxPeakMagnitude |d| / 2) |d| with habove | hbelow
  · exact ⟨_, tick_of_start hv habove, rfl, rfl, rfl⟩
  · exact ⟨_, tick_of_idle hv hbelow, rfl, rfl, rfl⟩

/-- Settles O28: `TICK_D` is such a tick, and `TICK_S` is one after the preprocessor's writes. -/
theorem tickWithoutPendingPeakKeepsFraming : Obligations.TickWithoutPendingPeakKeepsFraming := by
  rintro i s hv (⟨x, rfl⟩ | ⟨d, rfl⟩)
  · exact tick_keeps_framing_of_no_peak _ hv
  · exact tick_keeps_framing_of_no_peak d hv

/-- Settles O29: the induction over the ticks of `WAIT`. -/
theorem quietTicksDecayAndCount : Obligations.QuietTicksDecayAndCount :=
  fun n _ => run_waitTicks_of_quiet n

end Sys2Proof.Machine
end

section
/-! What a Peak does, by the row that it selects (42_framing_fsm.md R120 to R132): one equation of `finalize` for the
terminal state, the preamble, the frame that is lost and the gap that is accepted, and one of the advance. -/

namespace Sys2Proof.Machine

/-- While the count is terminal a row writes nothing (R122). -/
theorem runRow_of_terminal {pk : Peak} {s : State} (h14 : s.halfBitCount = 14) : runRow pk s = .next s := by
  rw [runRow, if_pos ((condT_iff s).mpr h14), runTerminal_eq]

/-- In a frame a Peak of the sign before it loses the frame, before its timing is looked at (R125, R163). -/
theorem runRow_of_same_sign {pk : Peak} {s : State} (h0 : s.halfBitCount ≠ 0) (h14 : s.halfBitCount ≠ 14)
    (hsign : sign pk.value = sign s.lastPeakSign) : runRow pk s = .next (invalidateFraming s) := by
  rw [runRow, if_neg (mt (condT_iff s).mp h14), if_neg (mt (condZ_iff s).mp h0), if_pos ((condS_iff pk s).mpr hsign)]
  rfl

/-- The gap of `n` half-bits is one that a count `c` in a frame accepts (R126 to R128). -/
abbrev GapAccepted (c n : Nat) : Prop :=
  n = 1 ∧ c % 2 = 0 ∨ n = 2 ∨ n = 3 ∧ c % 2 = 1

/-- The gap class is one that no row accepts at a count `c` in a frame (R129). -/
abbrev GapRejected (c : Nat) (g : GapClass) : Prop :=
  g = .other ∨ (g = .short ∧ c % 2 = 1) ∨ (g = .long ∧ c % 2 = 0)

/-- In a frame each gap class is accepted as a number of half-bits or rejected (R129). -/
theorem gap_rejected_or_accepted (c : Nat) (g : GapClass) :
    GapRejected c g ∨ ∃ n, GapAccepted c n ∧ g = classOfHalfBits n := by
  have parity := Nat.mod_two_eq_zero_or_one c
  cases g with
  | other => exact .inl (.inl rfl)
  | normal => exact .inr ⟨2, .inr (.inl rfl), rfl⟩
  | short => exact parity.symm.imp (fun hodd => .inr (.inl ⟨rfl, hodd⟩)) fun heven => ⟨1, .inl ⟨rfl, heven⟩, rfl⟩
  | long => exact parity.imp (fun heven => .inr (.inr ⟨rfl, heven⟩)) fun hodd => ⟨3, .inr (.inr ⟨rfl, hodd⟩), rfl⟩

/-- In a frame an alternating Peak with a rejected gap loses the frame (R129). -/
theorem runRow_of_rejected {pk : Peak} {s : State} (h0 : s.halfBitCount ≠ 0) (h14 : s.halfBitCount ≠ 14)
    (hsign : sign pk.value ≠ sign s.lastPeakSign) (hgap : GapRejected s.halfBitCount.toNat (gapClass pk.position)) :
    runRow pk s = .next (invalidateFraming s) := by
  rw [runRow, if_neg (mt (condT_iff s).mp h14), if_neg (mt (condZ_iff s).mp h0),
    if_neg (mt (condS_iff pk s).mp hsign)]
  rcases hgap with hG | ⟨hG, hP⟩ | ⟨hG, hP⟩
  · rw [hG]; rfl
  · simp [hG, condP_iff, hP, execFsmBadtime]
  · simp [hG, condP_iff, hP, execFsmBadtime]

/-- The post-step records the value and folds the count (R131, R132). -/
theorem execFsmPost_eq (v : Numfmt) (s : State) : execFsmPost v s =
    .next { s with lastPeakSign := v, halfBitCount := if s.halfBitCount = 13 then 14 else s.halfBitCount } := by
  rw [execFsmPost, foldCount, config_hbcFold, config_hbcMax, recordPeak_halfBitCount]
  split_ifs <;> rfl

/-- In the terminal state a Peak is only recorded (R122, R131). -/
theorem finalize_of_terminal {pk : Peak} {s : State} (h14 : s.halfBitCount = 14) :
    finalize pk s = .next { s with lastPeakSign := pk.value } := by
  rw [finalize, runRow_of_terminal h14, andThen_next, execFsmPost_eq, if_neg (by rw [h14]; decide)]

/-- While idle, a Peak with the preamble's gap starts a frame (R123, R131). -/
theorem finalize_of_preamble {pk : Peak} {s : State} (h0 : s.halfBitCount = 0) (hgap : gapClass pk.position = .normal) :
    finalize pk s = .next { s with halfBitCount := 2, bitAccumulator := 0, lastPeakSign := pk.value } :=
  finalize_preamble 0 h0 hgap

/-- A Peak whose row loses the frame resets the count and is recorded (R125, R129, R131). -/
theorem finalize_of_lost {pk : Peak} {s : State} (hrow : runRow pk s = .next (invalidateFraming s)) :
    finalize pk s = .next { s with halfBitCount := 0, lastPeakSign := pk.value } := by
  rw [finalize, hrow, andThen_next, execFsmPost_eq]
  rfl

/-- `shift_in` of a bit in the source's spelling: `(acc >> 1) | (b << 5)` (R130). -/
theorem shifted_in_eq (b : Bool) (a : Addr) :
    BitVec.ofBool b ++ a.extractLsb' 1 5 = (a >>> 1) ||| (if b then 0b100000 else 0) := by
  revert b a; decide +kernel

/-- In a frame an alternating Peak with an accepted gap advances the count by its half-bits, shifts the parity in and
is recorded (R126 to R128, R130 to R132). -/
theorem finalize_of_accepted {pk : Peak} {s : State} {n : Nat} (h0 : s.halfBitCount ≠ 0) (h14 : s.halfBitCount ≠ 14)
    (hsign : sign pk.value ≠ sign s.lastPeakSign) (hgap : gapClass pk.position = classOfHalfBits n)
    (hn : GapAccepted s.halfBitCount.toNat n) (hle : s.halfBitCount.toNat + n ≤ 14) :
    finalize pk s = .next { s with
      halfBitCount := foldedCount (s.halfBitCount.toNat + n)
      bitAccumulator := (s.bitAccumulator >>> 1) ||| (if (s.halfBitCount.toNat + n) % 2 = 1 then 0b100000 else 0)
      lastPeakSign := pk.value } := by
  rw [finalize_of_advance (runRow_eq_advance h0 h14 hsign hgap hn) hle, shifted_in_eq]
  simp only [decide_eq_true_eq]

/-- An advance of the count within 14, with the shift in the source's spelling (R126 to R128, R130). -/
theorem advance_eq {n : Nat} {s : State} (hle : s.halfBitCount.toNat + n ≤ 14) : advance n s = .next { s with
    halfBitCount := s.halfBitCount + BitVec.ofNat 4 n
    bitAccumulator := (s.bitAccumulator >>> 1) |||
      (if (s.halfBitCount.toNat + n) % 2 = 1 then 0b100000 else 0) } := by
  have hsum : (s.halfBitCount + BitVec.ofNat 4 n).toNat = s.halfBitCount.toNat + n := by
    rw [BitVec.toNat_add, BitVec.toNat_ofNat]
    omega
  rw [advance_next hle, shiftIn_eq]
  simp only [hsum]

/-- The short window of R71. -/
theorem gapClass_of_short_window {p : Ticks} (hlo : 4 ≤ p.toNat) (hhi : p.toNat ≤ 6) : gapClass p = .short := by
  rw [gapClass_eq, if_pos ⟨hlo, hhi⟩]

/-- The normal window of R71. -/
theorem gapClass_eq_normal_iff {p : Ticks} : gapClass p = .normal ↔ 9 ≤ p.toNat ∧ p.toNat ≤ 11 := by
  rw [gapClass_eq]
  split_ifs <;> simp <;> omega

/-- The long window of R71. -/
theorem gapClass_of_long_window {p : Ticks} (hlo : 14 ≤ p.toNat) (hhi : p.toNat ≤ 16) : gapClass p = .long := by
  rw [gapClass_eq, if_neg (by omega), if_neg (by omega), if_pos ⟨hlo, hhi⟩]

/-- A count other than 0, in natural numbers. -/
theorem count_ne_zero_iff {c : Count} : c ≠ 0 ↔ c.toNat ≠ 0 := by
  revert c; decide

/-- A count other than the terminal one, in natural numbers. -/
theorem count_ne_terminal_iff {c : Count} : c ≠ 14 ↔ c.toNat ≠ 14 := by
  revert c; decide

end Sys2Proof.Machine
end

section
/-! The rows by themselves and the Peaks that select them (42_framing_fsm.md R122 to R129, R131, R132; 93 U4). -/

namespace Sys2Proof.Machine

/-- Settles O33: the row's pseudocode, and the terminal Peak. -/
theorem fsmHoldKeepsTheTerminalState : Obligations.FsmHoldKeepsTheTerminalState :=
  fun _ _ => ⟨rfl, finalize_of_terminal⟩

/-- Settles O34: the row's pseudocode, and the idle Peak in the normal window. -/
theorem fsmStartStartsAFrame : Obligations.FsmStartStartsAFrame :=
  fun _ _ => ⟨rfl, fun h0 hlo hhi => finalize_of_preamble h0 (gapClass_eq_normal_iff.mpr ⟨hlo, hhi⟩)⟩

/-- Settles O35: the row's pseudocode, and the idle Peak outside the normal window. -/
theorem fsmNoiseKeepsIdle : Obligations.FsmNoiseKeepsIdle :=
  fun _ _ => ⟨rfl, fun h0 hout => finalize_noise h0 (mt gapClass_eq_normal_iff.mp hout)⟩

/-- Settles O36: the row's pseudocode, and the Peak whose sign loses the frame. -/
theorem fsmSignerrResetsTheCount : Obligations.FsmSignerrResetsTheCount :=
  fun _ _ => ⟨rfl, fun h0 h14 hsign => finalize_of_lost (runRow_of_same_sign h0 h14 hsign)⟩

/-- Settles O37: an advance by 1; at an even count the bit is 1, and only 12 comes to 13. -/
theorem fsmHalfAddsOne : Obligations.FsmHalfAddsOne := by
  intro pk s
  refine ⟨advance_eq, fun heven h0 h14 hsign hlo hhi => ?_⟩
  have folded : ∀ c : Count, c.toNat % 2 = 0 → c ≠ 14 →
      c.toNat + 1 ≤ 14 ∧ foldedCount (c.toNat + 1) = if c = 12 then 14 else c + 1 := by decide
  obtain ⟨hle, hcount⟩ := folded _ heven h14
  have hodd : (s.halfBitCount.toNat + 1) % 2 = 1 := by omega
  rw [finalize_of_accepted (n := 1) h0 h14 hsign (gapClass_of_short_window hlo hhi) (.inl ⟨rfl, heven⟩) hle, hcount,
    if_pos hodd]

/-- Settles O38: an advance by 2, which keeps the parity; only 11 comes to 13. -/
theorem fsmFullAddsTwo : Obligations.FsmFullAddsTwo := by
  intro pk s
  rw [← Nat.add_mod_right s.halfBitCount.toNat 2]
  refine ⟨advance_eq, fun hpos hle hsign hlo hhi => ?_⟩
  have folded : ∀ c : Count, c.toNat ≤ 12 → foldedCount (c.toNat + 2) = if c = 11 then 14 else c + 2 := by decide
  rw [finalize_of_accepted (n := 2) (count_ne_zero_iff.mpr (by omega)) (count_ne_terminal_iff.mpr (by omega)) hsign
    (gapClass_eq_normal_iff.mpr ⟨hlo, hhi⟩) (.inr (.inl rfl)) (by omega), folded _ hle]

/-- Settles O39: an advance by 3; from an odd count the bit is 0, and the sum is even, so never 13. -/
theorem fsmLongAddsThree : Obligations.FsmLongAddsThree := by
  intro pk s
  refine ⟨advance_eq, fun hodd hle hsign hlo hhi => ?_⟩
  have folded : ∀ c : Count, c.toNat % 2 = 1 → c.toNat ≤ 11 → foldedCount (c.toNat + 3) = c + 3 := by decide
  rw [finalize_of_accepted (n := 3) (count_ne_zero_iff.mpr (by omega)) (count_ne_terminal_iff.mpr (by omega)) hsign
    (gapClass_of_long_window hlo hhi) (.inr (.inr ⟨rfl, hodd⟩)) (by omega), folded _ hodd hle, if_neg (by omega)]
  simp only [BitVec.ofNat_eq_ofNat, BitVec.or_zero]

/-- Settles O40: the row's pseudocode, and the alternating Peak whose gap loses the frame. -/
theorem fsmBadtimeResetsTheCount : Obligations.FsmBadtimeResetsTheCount :=
  fun _ _ => ⟨rfl, fun h0 h14 hsign hgap => finalize_of_lost (runRow_of_rejected h0 h14 hsign hgap)⟩

/-- Settles O41: the record and the fold as one update. -/
theorem fsmPostRecordsAndFolds : Obligations.FsmPostRecordsAndFolds :=
  execFsmPost_eq

/-- Settles O42: the three rows are advances. -/
theorem advanceAboveTerminalIsRefused : Obligations.AdvanceAboveTerminalIsRefused :=
  fun _ _ => ⟨advance_refused, advance_refused, advance_refused⟩

end Sys2Proof.Machine
end

section
/-! The FSM word (30_encoding.md R70, R72): the row that runs is the one that it selects. -/

namespace Sys2Proof.Machine

/-- The bits of an FSM word that stand for conditions (R70). -/
theorem fsmWord_conditions (pk : Peak) (s : State) :
    (fsmWord pk s).getLsbD 5 = condT s ∧ (fsmWord pk s).getLsbD 4 = condZ s ∧
    (fsmWord pk s).getLsbD 3 = condS pk s ∧ (fsmWord pk s).getLsbD 2 = condP s := by
  have bits : ∀ (t z s p : Bool) (g : BitVec 2),
      let w := BitVec.ofBool t ++ BitVec.ofBool z ++ BitVec.ofBool s ++ BitVec.ofBool p ++ g
      w.getLsbD 5 = t ∧ w.getLsbD 4 = z ∧ w.getLsbD 3 = s ∧ w.getLsbD 2 = p := by decide
  exact bits _ _ _ _ _

/-- Settles O7: the selection asks the four conditions and the gap class, which are the word's bits. -/
theorem rowRunIsTheDecodedOne : Obligations.RowRunIsTheDecodedOne := by
  intro pk s
  obtain ⟨-, -, -, hagrees⟩ := contradictoryWordsAreRejected
  obtain ⟨hT, hZ, hS, hP⟩ := fsmWord_conditions pk s
  have hG : (fsmWord pk s).extractLsb' 0 2 = gapCode (gapClass pk.position) := hagrees pk s
  refine ⟨_, fsmWordSelectsItsRow _ pk (hagrees pk s), ?_⟩
  rw [hT, hZ, hS, hP, hG, runRow]
  simp only [gapCode_eq_short, gapCode_eq_normal, gapCode_eq_long]
  cases gapClass pk.position <;> simp only [reduceCtorEq, reduceIte] <;> split_ifs <;> rfl

end Sys2Proof.Machine
end

section
/-! The shift register (42_framing_fsm.md R130, R137), bit by bit. -/

namespace Sys2Proof.Machine

/-- A shift moves every bit down by one and puts the parity of the count at bit 5 (R130). -/
theorem shiftIn_getLsbD (s : State) {i : Nat} (hi : i < 6) : (shiftIn s).bitAccumulator.getLsbD i =
    if i = 5 then s.halfBitCount.getLsbD 0 else s.bitAccumulator.getLsbD (i + 1) := by
  have moved : ∀ (b : Bool) (a : Addr), ∀ i < 6, (BitVec.ofBool b ++ a.extractLsb' 1 5).getLsbD i =
      if i = 5 then b else a.getLsbD (i + 1) := by decide +kernel
  exact moved _ _ i hi

/-- The bits of the lowest bits of six counts, joined. -/
theorem joined_getLsbD (c0 c1 c2 c3 c4 c5 : Count) :
    let a : Addr := c5.extractLsb' 0 1 ++ c4.extractLsb' 0 1 ++ c3.extractLsb' 0 1 ++ c2.extractLsb' 0 1 ++
      c1.extractLsb' 0 1 ++ c0.extractLsb' 0 1
    a.getLsbD 0 = c0.getLsbD 0 ∧ a.getLsbD 1 = c1.getLsbD 0 ∧ a.getLsbD 2 = c2.getLsbD 0 ∧
      a.getLsbD 3 = c3.getLsbD 0 ∧ a.getLsbD 4 = c4.getLsbD 0 ∧ a.getLsbD 5 = c5.getLsbD 0 := by
  simp only [BitVec.getLsbD_append, BitVec.getLsbD_extractLsb']
  simp

/-- Settles O43: bit `i` after six shifts is the one that the shift of count `i` put at bit 5. -/
theorem sixShiftsReplaceTheAddress : Obligations.SixShiftsReplaceTheAddress := by
  intro s c0 c1 c2 c3 c4 c5 shift
  obtain ⟨h0, h1, h2, h3, h4, h5⟩ := joined_getLsbD c0 c1 c2 c3 c4 c5
  have hshift : ∀ (c : Count) (u : State) (i : Nat), i < 6 → (shift c u).bitAccumulator.getLsbD i =
      if i = 5 then c.getLsbD 0 else u.bitAccumulator.getLsbD (i + 1) := fun _ _ _ => shiftIn_getLsbD _
  refine BitVec.eq_of_getLsbD_eq fun i hi => ?_
  interval_cases i <;>
    simp (disch := decide) only [hshift, h0, h1, h2, h3, h4, h5, Nat.reduceAdd, Nat.reduceEqDiff, reduceIte]

end Sys2Proof.Machine
end

section
/-! The table of transitions (42_framing_fsm.md R138) and what follows from it for the count (R140, R141). -/

namespace Sys2Proof.Machine

/-- In a frame a count that a run can leave is at most 12 (R139). -/
theorem legalCount_inFrame_le {c : Count} (hc : LegalCount c) (h14 : c ≠ 14) : c.toNat ≤ 12 := by
  revert c; decide

/-- The table's row of a Peak that loses the frame (R138). -/
theorem transitionTable_of_lost {c : Nat} {same : Bool} {g : GapClass} (h0 : c ≠ 0) (h14 : c ≠ 14)
    (hlost : same = true ∨ GapRejected c g) : transitionTable c same g = (0, none) := by
  unfold transitionTable
  rw [if_neg h0, if_neg h14]
  cases same with
  | true => rfl
  | false =>
    rcases hlost.resolve_left Bool.false_ne_true with rfl | ⟨rfl, hP⟩ | ⟨rfl, hP⟩
    · split_ifs <;> rfl
    · simp [hP]
    · simp [hP]

/-- The table's row of an accepted gap: the folded count, and the parity of the count before the fold (R138). -/
theorem transitionTable_of_accepted {c n : Nat} (h0 : c ≠ 0) (h14 : c ≠ 14) (hn : GapAccepted c n) :
    transitionTable c false (classOfHalfBits n) =
      (if c + n = 13 then 14 else c + n, some (decide ((c + n) % 2 = 1))) := by
  unfold transitionTable
  rw [if_neg h0, if_neg h14, if_neg Bool.false_ne_true]
  rcases hn with ⟨rfl, hP⟩ | rfl | ⟨rfl, hP⟩
  · have hodd : (c + 1) % 2 = 1 := by omega
    simp [classOfHalfBits, hP, hodd]
  · rcases Nat.mod_two_eq_zero_or_one c with hP | hP
    · have hfold : c + 2 ≠ 13 := by omega
      simp [classOfHalfBits, hP, hfold]
    · simp [classOfHalfBits, hP]
  · have heven : (c + 3) % 2 = 0 := by omega
    have hfold : c + 3 ≠ 13 := by omega
    simp [classOfHalfBits, hP, heven, hfold]

/-- What a Peak can do in a frame: it loses the frame, by its sign or its gap, or it is accepted (R125 to R129). -/
theorem finalize_lost_or_accepted (pk : Peak) {s : State} (hs : LegalCount s.halfBitCount) (h0 : s.halfBitCount ≠ 0)
    (h14 : s.halfBitCount ≠ 14) :
    ((sign pk.value = sign s.lastPeakSign ∨ GapRejected s.halfBitCount.toNat (gapClass pk.position)) ∧
      finalize pk s = .next { s with halfBitCount := 0, lastPeakSign := pk.value }) ∨
    ∃ n, sign pk.value ≠ sign s.lastPeakSign ∧ gapClass pk.position = classOfHalfBits n ∧
      GapAccepted s.halfBitCount.toNat n ∧ s.halfBitCount.toNat + n ≤ 14 ∧
      finalize pk s = .next { s with
        halfBitCount := foldedCount (s.halfBitCount.toNat + n)
        bitAccumulator := (s.bitAccumulator >>> 1) ||| (if (s.halfBitCount.toNat + n) % 2 = 1 then 0b100000 else 0)
        lastPeakSign := pk.value } := by
  by_cases hsign : sign pk.value = sign s.lastPeakSign
  · exact .inl ⟨.inl hsign, finalize_of_lost (runRow_of_same_sign h0 h14 hsign)⟩
  rcases gap_rejected_or_accepted s.halfBitCount.toNat (gapClass pk.position) with hgap | ⟨n, hn, hgap⟩
  · exact .inl ⟨.inr hgap, finalize_of_lost (runRow_of_rejected h0 h14 hsign hgap)⟩
  · have hbound : s.halfBitCount.toNat ≤ 12 := legalCount_inFrame_le hs h14
    have hle : s.halfBitCount.toNat + n ≤ 14 := by omega
    exact .inr ⟨n, hsign, hgap, hn, hle, finalize_of_accepted h0 h14 hsign hgap hn hle⟩

/-- Settles O44: the idle and the terminal state, then in a frame the Peak that is lost and the one that is accepted. -/
theorem finalizeFollowsTheTransitionTable : Obligations.FinalizeFollowsTheTransitionTable := by
  intro pk s hs row
  by_cases h0 : s.halfBitCount = 0
  · by_cases hgap : gapClass pk.position = .normal
    · have hrow : row = (2, none) := by simp [row, transitionTable, h0, hgap]
      rw [finalize_of_preamble h0 hgap, hrow]
      simp [h0, hgap]
    · have hrow : row = (0, none) := by simp [row, transitionTable, h0, hgap]
      rw [finalize_noise h0 hgap, hrow]
      simp [h0, hgap]
  by_cases h14 : s.halfBitCount = 14
  · have hrow : row = (14, none) := by simp [row, transitionTable, h14]
    rw [finalize_of_terminal h14, hrow]
    simp [h14]
  have h0' := count_ne_zero_iff.mp h0
  have h14' := count_ne_terminal_iff.mp h14
  rcases finalize_lost_or_accepted pk hs h0 h14 with ⟨hlost, hfin⟩ | ⟨n, hsign, hgap, hn, -, hfin⟩
  · have hrow : row = (0, none) := transitionTable_of_lost h0' h14' (hlost.imp_left decide_eq_true)
    have hbusy : ¬ (s.halfBitCount = 0 ∧ gapClass pk.position = .normal) := fun h => h0 h.1
    rw [hfin, hrow]
    simp only [hbusy, if_false]
    rfl
  · have hrow : row = (if s.halfBitCount.toNat + n = 13 then 14 else s.halfBitCount.toNat + n,
        some (decide ((s.halfBitCount.toNat + n) % 2 = 1))) := by
      rw [← transitionTable_of_accepted h0' h14' hn, ← hgap, ← decide_eq_false hsign]
    rw [hfin, hrow, foldedCount]
    congr 2
    · split_ifs <;> rfl
    · by_cases hodd : (s.halfBitCount.toNat + n) % 2 = 1 <;> simp [hodd]

/-- An accepted gap leads into the next cell (R140). -/
theorem cell_add_of_accepted {c n : Nat} (hn : GapAccepted c n) : cell (c + n) = cell c + 1 := by
  unfold cell
  split_ifs <;> omega

/-- The fold stays in its cell: 13 and 14 are both in cell 7 (R132, R140). -/
theorem cell_foldedCount : ∀ m ≤ 14, cell (foldedCount m).toNat = cell m := by
  decide

/-- Settles O51: a Peak that does not lose the frame is accepted, and its gap leads into the next cell. -/
theorem acceptedTransitionAdvancesOneCell : Obligations.AcceptedTransitionAdvancesOneCell := by
  refine ⟨fun pk s t hs h0 h14 h hkept => ?_, rfl, rfl, rfl⟩
  rcases finalize_lost_or_accepted pk hs h0 h14 with ⟨-, hfin⟩ | ⟨n, -, -, hn, hle, hfin⟩
  · cases hfin.symm.trans h
    exact absurd rfl hkept
  · cases hfin.symm.trans h
    exact (cell_foldedCount _ hle).trans (cell_add_of_accepted hn)

/-- The fold never lowers a count (R132). -/
theorem le_foldedCount : ∀ m ≤ 14, m ≤ (foldedCount m).toNat := by
  decide

/-- A Peak leaves the count, resets it or raises it (R141). -/
theorem finalize_count_increases_or_resets {pk : Peak} {s t : State} (h : finalize pk s = .next t)
    (hs : LegalCount s.halfBitCount) :
    t.halfBitCount = s.halfBitCount ∨ t.halfBitCount = 0 ∨ s.halfBitCount.toNat < t.halfBitCount.toNat := by
  by_cases h0 : s.halfBitCount = 0
  · by_cases hgap : gapClass pk.position = .normal
    · cases (finalize_of_preamble h0 hgap).symm.trans h
      exact .inr (.inr (by rw [h0]; exact Nat.two_pos))
    · cases (finalize_noise h0 hgap).symm.trans h
      exact .inl rfl
  by_cases h14 : s.halfBitCount = 14
  · cases (finalize_of_terminal h14).symm.trans h
    exact .inl rfl
  rcases finalize_lost_or_accepted pk hs h0 h14 with ⟨-, hfin⟩ | ⟨n, -, -, hn, hle, hfin⟩
  · cases hfin.symm.trans h
    exact .inr (.inl rfl)
  · cases hfin.symm.trans h
    exact .inr (.inr (lt_of_lt_of_le (by omega) (le_foldedCount _ hle)))

/-- Settles O52: `RESET` and `CLEAR` go to 0, `NOP` keeps the state, and a tick touches the count only by a Peak. -/
theorem countOnlyIncreasesOrResets : Obligations.CountOnlyIncreasesOrResets := by
  intro i s t hi hs h
  rcases exec_command_cases hi h with rfl | rfl | rfl | ⟨d, pv, ps, b0, b1, b2, htick⟩
  · exact .inl rfl
  · exact .inr (.inl rfl)
  · exact .inr (.inl rfl)
  rcases tick_next_cases htick with ⟨-, -, rfl⟩ | ⟨-, -, rfl⟩ | ⟨-, -, rfl⟩ | ⟨-, u, hu, rfl⟩
  · exact .inl rfl
  · exact .inl rfl
  · exact .inl rfl
  · exact (finalize_count_increases_or_resets hu hs :)

end Sys2Proof.Machine
end

section
/-! The completion outputs (42_framing_fsm.md R134, R135): progress and `done`, which no tick lowers. -/

namespace Sys2Proof.Machine

/-- `done` is the terminal state (R135). -/
theorem done_eq_one_iff (s : State) : done s = 1 ↔ s.halfBitCount = 14 := by
  have flag : ∀ b : Bool, BitVec.ofBool b = 1 ↔ b = true := by decide
  rw [done, flag, decide_eq_true_eq, config_hbcMax]

/-- Settles O59: the quotient is at most 107, which 7 bits hold; the two equivalences are over the 16 counts. -/
theorem progressFollowsTheCount : Obligations.ProgressFollowsTheCount := by
  have table : ∀ c : Count, (BitVec.ofNat 7 (c.toNat * 100 / 14)).toNat = c.toNat * 100 / 14 ∧
      (BitVec.ofNat 7 (c.toNat * 100 / 14) = 100 ↔ c = 14) ∧ (BitVec.ofNat 7 (c.toNat * 100 / 14) = 0 ↔ c = 0) := by
    decide
  exact fun s => table s.halfBitCount

/-- In the terminal state a tick completes and keeps the count and the accumulator: a Peak is only recorded
(R122, R187). -/
theorem tick_of_terminal (d : Numfmt) {s : State} (h14 : s.halfBitCount = 14) :
    ∃ t, tick d s = .next t ∧ t.halfBitCount = 14 ∧ t.bitAccumulator = s.bitAccumulator := by
  rcases tick_cases d s with ⟨-, -, ht⟩ | ⟨-, -, ht⟩ | ⟨-, -, -, -, ht⟩ | ⟨-, -, ht⟩
  · exact ⟨_, ht, h14, rfl⟩
  · exact ⟨_, ht, h14, rfl⟩
  · exact ⟨_, ht, h14, rfl⟩
  · rw [finalize_of_terminal (s := { s with maxPeakMagnitude := max s.maxPeakMagnitude |d| }) h14] at ht
    exact ⟨_, ht, h14, rfl⟩

/-- In the terminal state every command but `CLEAR` and `RESET` completes and keeps the count and the accumulator
(R122, R187). -/
theorem exec_command_of_terminal {i : Instr} {s : State} (hi : i.isCommand = true) (hclear : i ≠ .clear)
    (hreset : i ≠ .reset) (h14 : s.halfBitCount = 14) :
    ∃ t, exec i s = .next t ∧ t.halfBitCount = 14 ∧ t.bitAccumulator = s.bitAccumulator := by
  cases i with
  | nop => exact ⟨s, rfl, h14, rfl⟩
  | tickS x => exact tick_of_terminal _ h14
  | tickD d => exact tick_of_terminal d h14
  | clear => exact absurd rfl hclear
  | reset => exact absurd rfl hreset
  | _ => cases hi

/-- Settles O60: the ports by their definitions, and what a command does in the terminal state. -/
theorem doneIsTheTerminalState : Obligations.DoneIsTheTerminalState := by
  refine ⟨fun s => ⟨done_eq_one_iff s, rfl, fun _ => rfl⟩, fun i s hi hclear hreset hdone => ?_⟩
  obtain ⟨t, ht, h14, -⟩ := exec_command_of_terminal hi hclear hreset ((done_eq_one_iff s).mp hdone)
  exact ⟨t, ht, (done_eq_one_iff t).mpr h14⟩

end Sys2Proof.Machine
end

section
/-! The commands (43_commands.md R150 to R154): each completes in every state whose count a run can leave, hence every
step under the invariant, and what `RESET`, `NOP`, `TICK_S` and `CLEAR` do in every state. -/

namespace Sys2Proof.Machine

/-- From a count that a run can leave a tick completes: only the Peak of a finalizing tick could be refused, and none is
(R100, R136). -/
theorem tick_completes (d : Numfmt) {s : State} (hs : LegalCount s.halfBitCount) : ∃ t, tick d s = .next t := by
  rcases tick_cases d s with ⟨-, -, ht⟩ | ⟨-, -, ht⟩ | ⟨-, -, -, -, ht⟩ | ⟨-, -, ht⟩
  · exact ⟨_, ht⟩
  · exact ⟨_, ht⟩
  · exact ⟨_, ht⟩
  · obtain ⟨u, hu⟩ := finalize_completes (pendingPeak s)
      (s := { s with maxPeakMagnitude := max s.maxPeakMagnitude |d| }) hs
    exact ⟨_, ht.trans (andThen_eq_next.mpr ⟨u, hu, rfl⟩)⟩

/-- Settles O50: three commands complete in every state, and the other two are one tick, before which `TICK_S` does not
write the count. -/
theorem everyCommandCompletes : Obligations.EveryCommandCompletes := by
  intro i s hi hs
  cases i with
  | reset => exact ⟨_, rfl⟩
  | nop => exact ⟨_, rfl⟩
  | clear => exact ⟨_, rfl⟩
  | tickS x => exact tick_completes _ hs
  | tickD d => exact tick_completes d hs
  | _ => cases hi

/-- Settles O49: under the invariant the next request is a command, so it decodes, and the count is one from which every
command completes. -/
theorem stepCompletesUnderTheInvariant : Obligations.StepCompletesUnderTheInvariant := by
  intro s hs
  obtain ⟨hcount, -, -, hin⟩ := hs
  cases hinput : s.input with
  | nil => exact ⟨s, step_of_input_nil hinput⟩
  | cons r rest =>
    obtain ⟨i, hdec, hi⟩ := decode_of_isCommand (hin r (by simp [hinput]))
    rw [step_of_decode_ok hinput hdec]
    exact everyCommandCompletes i { s with input := rest } hi hcount

/-- Settles O17: `TICK_D` is one tick of the detector, and `TICK_S` is one on the filtered delta. -/
theorem tickSFiltersThenTicks : Obligations.TickSFiltersThenTicks :=
  execTickS_eq

/-- The ports show registers only, not what the caller presents next (R133 to R135, log entry 3). -/
theorem outputs_of_input (s : State) (rest : List Request) : outputs { s with input := rest } = outputs s :=
  rfl

/-- Settles O56: the registers are the reset state's, with its ports, and the decoder reads `rst` before `cmd`. -/
theorem resetCommandClearsEveryRegister : Obligations.ResetCommandClearsEveryRegister := by
  obtain ⟨-, hports⟩ := resetStateIsAllZero
  refine ⟨fun s => ⟨_, rfl, rfl, ?_⟩, fun w x hrst => ?_⟩
  · exact (outputs_of_input State.reset s.input).trans hports
  · rw [commandWordSelectsItsCommand w x, if_pos hrst]

/-- Settles O57: the rule has no statement. -/
theorem nopChangesNothing : Obligations.NopChangesNothing :=
  fun _ => rfl

/-- Settles O58: the one write is that of the idle count, at which both ports show 0. -/
theorem clearReturnsToIdle : Obligations.ClearReturnsToIdle := by
  intro s
  obtain ⟨-, -, hprogress⟩ := progressFollowsTheCount (invalidateFraming s)
  exact ⟨invalidateFraming s, rfl, rfl, rfl, hprogress.mpr rfl⟩

end Sys2Proof.Machine
end

section
/-! Resetting and hazards (70_reset_and_hazards.md R187, R189): the terminal state waits for `CLEAR` or `RESET`, and a
plateau of deltas gives two peaks of one sign. -/

namespace Sys2Proof.Machine

/-- Settles O53: the command keeps the count and the accumulator, and in the terminal state the accumulator is the
address. -/
theorem onlyClearAndResetLeaveTheTerminalState : Obligations.OnlyClearAndResetLeaveTheTerminalState := by
  intro i s hi h14 hclear hreset
  obtain ⟨t, ht, ht14, hacc⟩ := exec_command_of_terminal hi hclear hreset h14
  refine ⟨t, ht, ht14, hacc, ?_⟩
  rw [validAddress_of_terminal ht14, validAddress_of_terminal h14, hacc]

/-- A delta above the threshold is above it again in the next tick: the tick leaves the maximum under twice
the delta and then decays it (R101, R109). -/
theorem above_threshold_next {d m : Numfmt} (habove : max m |d| / 2 < |d|) :
    max (max m |d| * (99 / 100)) |d| / 2 < |d| := by
  have hmax : 0 ≤ max m |d| := le_max_of_le_right (abs_nonneg d)
  obtain ⟨hd, -⟩ := (above_threshold_iff m d).mp habove
  exact (above_threshold_iff _ d).mpr ⟨hd, by linarith⟩

/-- A delta no larger than the pending peak finalizes that peak and is dropped (R105). -/
theorem tick_of_not_larger {d : Numfmt} {s : State} (hv : s.pkValid = true) (hs : LegalCount s.halfBitCount)
    (hle : |d| ≤ |s.pkValue|) : ∃ t, tick d s = .next t ∧ t.pkValid = false ∧ t.lastPeakSign = s.pkValue ∧
      t.tickCnt = satInc s.tickCnt ∧ t.maxPeakMagnitude = max s.maxPeakMagnitude |d| * (99 / 100) := by
  obtain ⟨_, _, htick⟩ := tickDFinalizes d s hv hs fun ⟨_, _, hlarger⟩ => not_lt.mpr hle hlarger
  exact ⟨_, htick, rfl, rfl, (satInc_eq _).symm, rfl⟩

/-- Settles O32: the first delta opens a peak, the second, no larger, finalizes it, and the third opens another one
two ticks after the first. -/
theorem plateauGivesTwoPeaks : Obligations.PlateauGivesTwoPeaks := by
  intro d s hv hs hd hhalf
  have habove : max s.maxPeakMagnitude |d| / 2 < |d| := (above_threshold_iff _ d).mpr ⟨hd, hhalf⟩
  have hfirst := tick_of_start hv habove
  obtain ⟨t, hsecond, htv, hlast, hcount, hmax⟩ := tick_of_not_larger (d := d)
    (s := { s with maxPeakMagnitude := max s.maxPeakMagnitude |d| * (99 / 100), pkValid := true, pkValue := d,
                   pkPos := s.tickCnt, tickCnt := 1 }) rfl hs le_rfl
  have habove' : max t.maxPeakMagnitude |d| / 2 < |d| := by
    rw [hmax]
    exact above_threshold_next (above_threshold_next habove)
  have hrun : run [.tickD d, .tickD d] s = .next t :=
    run_cons_eq_next.mpr ⟨_, hfirst, run_cons_eq_next.mpr ⟨t, hsecond, rfl⟩⟩
  exact ⟨t, _, hrun, htv, hlast, tick_of_start htv habove', rfl, rfl, hcount⟩

end Sys2Proof.Machine
end
